-- ==== Sys2Proof/Word.lean ====
section
/-! DEFINITION. The two word types of the block (00_scope R8, R11): a byte is an unsigned 8-bit value and
a word an unsigned 16-bit value, and all their arithmetic is modulo 2^8 or 2^16. -/

namespace Sys2Proof

/-- An unsigned 8-bit value: every register but PC, every memory cell (R8, R11). -/
abbrev Byte := BitVec 8

/-- An unsigned 16-bit value: PC and every CPU bus address (R8, R11). -/
abbrev Word := BitVec 16

end Sys2Proof
end

