-- ==== Sys2Proof/Syntax.lean ====
section
/-! DEFINITION. The instructions as syntax: one constructor per handler of 41_jump to 47_common_group0,
with the operands its bytes carry, and one for the illegal handler (30_encoding R87). One handler serves
all addressing modes of its instruction (30_encoding R81), so the mode is part of the operand. -/

namespace Sys2Proof

/-- The addressing modes of the Common family (30_encoding R82, R83). -/
inductive Mode where
  | izx | zp | imm | abs | izy | zpx | aby | abx | zpy
deriving DecidableEq, Repr

/-- An operand in memory, with the address bytes of the instruction (30_encoding R86, 40_dispatch R99). -/
inductive MemOperand where
  | zp  (a : Byte)
  | zpx (a : Byte)
  | zpy (a : Byte)
  | abs (w : Word)
  | abx (w : Word)
  | aby (w : Word)
  | izx (a : Byte)
  | izy (a : Byte)
deriving DecidableEq, Repr

/-- An operand that is read: an immediate byte or a memory operand (40_dispatch R100). -/
inductive Operand where
  | imm (v : Byte)
  | mem (m : MemOperand)
deriving DecidableEq, Repr

/-- The mode of a memory operand. -/
def MemOperand.mode : MemOperand → Mode
  | .zp _ => .zp
  | .zpx _ => .zpx
  | .zpy _ => .zpy
  | .abs _ => .abs
  | .abx _ => .abx
  | .aby _ => .aby
  | .izx _ => .izx
  | .izy _ => .izy

/-- The mode of an operand. -/
def Operand.mode : Operand → Mode
  | .imm _ => .imm
  | .mem m => m.mode

/-- The instructions. -/
inductive Instr where
  -- Jump family (41_jump)
  | jmpAbs (target : Word)
  | jmpInd (ptr : Word)
  -- Special family (42_special)
  | jsr (target : Word)
  | brk
  | rti
  | rts
  -- Branch family (43_branch)
  | bpl (rel : Byte)
  | bmi (rel : Byte)
  | bvc (rel : Byte)
  | bvs (rel : Byte)
  | bcc (rel : Byte)
  | bcs (rel : Byte)
  | bne (rel : Byte)
  | beq (rel : Byte)
  -- Implied family (44_implied)
  | php
  | plp
  | pha
  | pla
  | clc
  | sec
  | cli
  | sei
  | clv
  | cld
  | sed
  | tax
  | tay
  | txa
  | tya
  | txs
  | tsx
  | inx
  | iny
  | dex
  | dey
  | aslA
  | rolA
  | lsrA
  | rorA
  | nop
  -- Common family, group cc = 01 (45_common_group1)
  | ora (o : Operand)
  | and (o : Operand)
  | eor (o : Operand)
  | adc (o : Operand)
  | sta (m : MemOperand)
  | lda (o : Operand)
  | cmp (o : Operand)
  | sbc (o : Operand)
  -- Common family, group cc = 10 (46_common_group2)
  | asl (m : MemOperand)
  | rol (m : MemOperand)
  | lsr (m : MemOperand)
  | ror (m : MemOperand)
  | stx (m : MemOperand)
  | ldx (o : Operand)
  | dec (m : MemOperand)
  | inc (m : MemOperand)
  -- Common family, group cc = 00 (47_common_group0)
  | bit (m : MemOperand)
  | sty (m : MemOperand)
  | ldy (o : Operand)
  | cpy (o : Operand)
  | cpx (o : Operand)
  -- the illegal handler (30_encoding R87), with the opcode that reached it
  | illegal (op : Byte)
deriving DecidableEq, Repr

end Sys2Proof
end

