-- ==== Sys2Proof/WellFormed.lean ====
section
/-! DEFINITION. Which terms of `Instr` are instructions: the valid modes of each Common handler
(30_encoding R84) and the list of the 105 illegal opcodes (30_encoding R87). -/

namespace Sys2Proof

/-- R84, first row: ORA, AND, EOR, ADC, LDA, CMP, SBC. -/
def readModes : List Mode := [.izx, .zp, .imm, .abs, .izy, .zpx, .aby, .abx]

/-- R84: STA. -/
def staModes : List Mode := [.izx, .zp, .abs, .izy, .zpx, .aby, .abx]

/-- R84: ASL, ROL, LSR, ROR, DEC, INC. -/
def modifyModes : List Mode := [.zp, .abs, .zpx, .abx]

/-- R84: STX. -/
def stxModes : List Mode := [.zp, .abs, .zpy]

/-- R84: LDX. -/
def ldxModes : List Mode := [.imm, .zp, .abs, .zpy, .aby]

/-- R84: BIT. -/
def bitModes : List Mode := [.zp, .abs]

/-- R84: STY. -/
def styModes : List Mode := [.zp, .abs, .zpx]

/-- R84: LDY. -/
def ldyModes : List Mode := [.imm, .zp, .abs, .zpx, .abx]

/-- R84: CPY, CPX. -/
def cpModes : List Mode := [.imm, .zp, .abs]

/-- R87's list of the illegal opcodes, row by row. -/
def illegalOpcodes : List Byte :=
  ([0x02, 0x03, 0x04, 0x07, 0x0B, 0x0C, 0x0F, 0x12, 0x13, 0x14, 0x17, 0x1A, 0x1B, 0x1C, 0x1F] : List Byte) ++
  [0x22, 0x23, 0x27, 0x2B, 0x2F, 0x32, 0x33, 0x34, 0x37, 0x3A, 0x3B, 0x3C, 0x3F, 0x42, 0x43, 0x44, 0x47, 0x4B, 0x4F] ++
  [0x52, 0x53, 0x54, 0x57, 0x5A, 0x5B, 0x5C, 0x5F, 0x62, 0x63, 0x64, 0x67, 0x6B, 0x6F, 0x72, 0x73, 0x74, 0x77] ++
  [0x7A, 0x7B, 0x7C, 0x7F, 0x80, 0x82, 0x83, 0x87, 0x89, 0x8B, 0x8F, 0x92, 0x93, 0x97, 0x9B, 0x9C, 0x9E, 0x9F] ++
  [0xA3, 0xA7, 0xAB, 0xAF, 0xB2, 0xB3, 0xB7, 0xBB, 0xBF, 0xC2, 0xC3, 0xC7, 0xCB, 0xCF, 0xD2, 0xD3, 0xD4, 0xD7] ++
  [0xDA, 0xDB, 0xDC, 0xDF, 0xE2, 0xE3, 0xE7, 0xEB, 0xEF, 0xF2, 0xF3, 0xF4, 0xF7, 0xFA, 0xFB, 0xFC, 0xFF]

/-- A term is an instruction iff its mode is in its handler's set (R84), or, for the illegal handler,
its opcode is one of the illegal ones (R87). Every other handler has one form. -/
def Instr.wf : Instr → Bool
  | .ora o | .and o | .eor o | .adc o | .lda o | .cmp o | .sbc o => readModes.contains o.mode
  | .sta m => staModes.contains m.mode
  | .asl m | .rol m | .lsr m | .ror m | .dec m | .inc m => modifyModes.contains m.mode
  | .stx m => stxModes.contains m.mode
  | .ldx o => ldxModes.contains o.mode
  | .bit m => bitModes.contains m.mode
  | .sty m => styModes.contains m.mode
  | .ldy o => ldyModes.contains o.mode
  | .cpy o | .cpx o => cpModes.contains o.mode
  | .illegal op => illegalOpcodes.contains op
  | .jmpAbs _ | .jmpInd _ | .jsr _ | .brk | .rti | .rts => true
  | .bpl _ | .bmi _ | .bvc _ | .bvs _ | .bcc _ | .bcs _ | .bne _ | .beq _ => true
  | .php | .plp | .pha | .pla | .clc | .sec | .cli | .sei | .clv | .cld | .sed => true
  | .tax | .tay | .txa | .tya | .txs | .tsx | .inx | .iny | .dex | .dey => true
  | .aslA | .rolA | .lsrA | .rorA | .nop => true

end Sys2Proof
end

