-- ==== Sys2Proof/Decode.lean ====
section
/-! DEFINITION. The decoder and the encoder (30_encoding). The decoder is the spec's: the five families
tested by bitmask in a fixed order (R76), then a table of the family indexed by opcode bits (R78 to R81),
then, in the Common family, the addressing mode from `bbb` (R82 to R84). The encoder is written from the
encoding tables of 41 to 47. The byte-order helpers stand here because fetching operands uses them. -/

namespace Sys2Proof

/-! ## Byte order (20_memory R62) -/

/-- `(hi << 8) | lo`. -/
def mkWord (hi lo : Byte) : Word := hi ++ lo

/-- `w[15:8]`. -/
def hiByte (w : Word) : Byte := w.extractLsb' 8 8

/-- `w[7:0]`. -/
def loByte (w : Word) : Byte := w.extractLsb' 0 8

/-! ## Opcode fields (R75) -/

/-- `aaa = op[7:5]`. -/
def opAaa (op : Byte) : BitVec 3 := op.extractLsb' 5 3

/-- `bbb = op[4:2]`. -/
def opBbb (op : Byte) : BitVec 3 := op.extractLsb' 2 3

/-- `cc = op[1:0]`. -/
def opCc (op : Byte) : BitVec 2 := op.extractLsb' 0 2

/-! ## Classification (R76) -/

/-- The five families, each with the index it takes into its table. -/
inductive Family where
  | jump (ind : Bool)
  | jsr
  | special (sel : BitVec 2)
  | branch (sel : BitVec 3)
  | implied (idx : BitVec 5)
  | common (idx : BitVec 5) (mode : BitVec 3)
deriving DecidableEq, Repr

/-- R76, in its order: the first test that matches decides. -/
def classify (op : Byte) : Family :=
  if op &&& 0xDF = 0x4C then .jump (op.getLsbD 5)
  else if op = 0x20 then .jsr
  else if op &&& 0x9F = 0x00 then .special (op.extractLsb' 5 2)
  else if op &&& 0x1F = 0x10 then .branch (opAaa op)
  else if op &&& 0x0D = 0x08 then .implied (op.extractLsb' 4 4 ++ op.extractLsb' 1 1)
  else .common (opAaa op ++ opCc op) (opBbb op)

/-! ## Dispatch tables -/

/-- The 4-entry special table (R78); slot 1 is illegal and never reached (42_special R119). -/
def specialTable (sel : BitVec 2) : Option Instr :=
  match sel.toNat with
  | 0 => some .brk
  | 1 => none
  | 2 => some .rti
  | _ => some .rts

/-- The eight branches (R79), each with its operand byte. -/
def branchTable (sel : BitVec 3) (rel : Byte) : Instr :=
  match sel.toNat with
  | 0 => .bpl rel
  | 1 => .bmi rel
  | 2 => .bvc rel
  | 3 => .bvs rel
  | 4 => .bcc rel
  | 5 => .bcs rel
  | 6 => .bne rel
  | _ => .beq rel

/-- The 32-entry implied table (R80); `none` marks an illegal slot. -/
def impliedTable (idx : BitVec 5) : Option Instr :=
  match idx.toNat with
  | 0 => some .php
  | 1 => some .aslA
  | 2 => some .clc
  | 4 => some .plp
  | 5 => some .rolA
  | 6 => some .sec
  | 8 => some .pha
  | 9 => some .lsrA
  | 10 => some .cli
  | 12 => some .pla
  | 13 => some .rorA
  | 14 => some .sei
  | 16 => some .dey
  | 17 => some .txa
  | 18 => some .tya
  | 19 => some .txs
  | 20 => some .tay
  | 21 => some .tax
  | 22 => some .clv
  | 23 => some .tsx
  | 24 => some .iny
  | 25 => some .dex
  | 26 => some .cld
  | 28 => some .inx
  | 29 => some .nop
  | 30 => some .sed
  | _ => none

/-- The handlers of the Common family (R81). -/
inductive CommonHandler where
  | ora | and | eor | adc | sta | lda | cmp | sbc
  | asl | rol | lsr | ror | stx | ldx | dec | inc
  | bit | sty | ldy | cpy | cpx
deriving DecidableEq, Repr

/-- The 32-entry common table, indexed by `(aaa << 2) | cc` (R81); `none` marks an illegal slot. -/
def commonTable (idx : BitVec 5) : Option CommonHandler :=
  match idx.toNat with
  | 1 => some .ora
  | 2 => some .asl
  | 4 => some .bit
  | 5 => some .and
  | 6 => some .rol
  | 9 => some .eor
  | 10 => some .lsr
  | 13 => some .adc
  | 14 => some .ror
  | 16 => some .sty
  | 17 => some .sta
  | 18 => some .stx
  | 20 => some .ldy
  | 21 => some .lda
  | 22 => some .ldx
  | 24 => some .cpy
  | 25 => some .cmp
  | 26 => some .dec
  | 28 => some .cpx
  | 29 => some .sbc
  | 30 => some .inc
  | _ => none

/-- The mode field for cc = 01 (R82). -/
def modeGroup1 (bbb : BitVec 3) : Mode :=
  match bbb.toNat with
  | 0 => .izx
  | 1 => .zp
  | 2 => .imm
  | 3 => .abs
  | 4 => .izy
  | 5 => .zpx
  | 6 => .aby
  | _ => .abx

/-- The mode field for cc = 00 and cc = 10 (R83); `none` where the field has no mode. -/
def modeGeneral (bbb : BitVec 3) : Option Mode :=
  match bbb.toNat with
  | 0 => some .imm
  | 1 => some .zp
  | 3 => some .abs
  | 5 => some .zpx
  | 7 => some .abx
  | _ => none

/-- The mode field for STX and LDX, which index by Y (R83). -/
def modeIndexedByY (bbb : BitVec 3) : Option Mode :=
  match bbb.toNat with
  | 0 => some .imm
  | 1 => some .zp
  | 3 => some .abs
  | 5 => some .zpy
  | 7 => some .aby
  | _ => none

/-- The valid modes of each handler (R84). -/
def CommonHandler.validModes : CommonHandler → List Mode
  | .ora | .and | .eor | .adc | .lda | .cmp | .sbc => readModes
  | .sta => staModes
  | .asl | .rol | .lsr | .ror | .dec | .inc => modifyModes
  | .stx => stxModes
  | .ldx => ldxModes
  | .bit => bitModes
  | .sty => styModes
  | .ldy => ldyModes
  | .cpy | .cpx => cpModes

/-- The mode a handler's field selects, before the validity check (R82, R83). -/
def CommonHandler.fieldMode (h : CommonHandler) (bbb : BitVec 3) : Option Mode :=
  match h with
  | .ora | .and | .eor | .adc | .sta | .lda | .cmp | .sbc => some (modeGroup1 bbb)
  | .stx | .ldx => modeIndexedByY bbb
  | .asl | .rol | .lsr | .ror | .dec | .inc | .bit | .sty | .ldy | .cpy | .cpx => modeGeneral bbb

/-- The handler's mode, or `none` where the pair is illegal (R84). -/
def CommonHandler.mode (h : CommonHandler) (bbb : BitVec 3) : Option Mode :=
  match h.fieldMode bbb with
  | some m => if h.validModes.contains m then some m else none
  | none => none

/-- The operand bytes of a mode (R82, R83). -/
def Mode.operandBytes : Mode → Nat
  | .abs | .abx | .aby => 2
  | .izx | .zp | .imm | .izy | .zpx | .zpy => 1

/-- Operand assembly (R86): byte 1 is the immediate, the zero-page address or the low address byte. -/
def Mode.operand (m : Mode) (b1 b2 : Byte) : Operand :=
  match m with
  | .imm => .imm b1
  | .zp => .mem (.zp b1)
  | .zpx => .mem (.zpx b1)
  | .zpy => .mem (.zpy b1)
  | .abs => .mem (.abs (mkWord b2 b1))
  | .abx => .mem (.abx (mkWord b2 b1))
  | .aby => .mem (.aby (mkWord b2 b1))
  | .izx => .mem (.izx b1)
  | .izy => .mem (.izy b1)

/-- The instruction of a handler that reads its operand. -/
def CommonHandler.instr (h : CommonHandler) (o : Operand) : Option Instr :=
  match h, o with
  | .ora, o => some (.ora o)
  | .and, o => some (.and o)
  | .eor, o => some (.eor o)
  | .adc, o => some (.adc o)
  | .lda, o => some (.lda o)
  | .cmp, o => some (.cmp o)
  | .sbc, o => some (.sbc o)
  | .ldx, o => some (.ldx o)
  | .ldy, o => some (.ldy o)
  | .cpy, o => some (.cpy o)
  | .cpx, o => some (.cpx o)
  | .sta, .mem m => some (.sta m)
  | .asl, .mem m => some (.asl m)
  | .rol, .mem m => some (.rol m)
  | .lsr, .mem m => some (.lsr m)
  | .ror, .mem m => some (.ror m)
  | .stx, .mem m => some (.stx m)
  | .dec, .mem m => some (.dec m)
  | .inc, .mem m => some (.inc m)
  | .bit, .mem m => some (.bit m)
  | .sty, .mem m => some (.sty m)
  | .sta, .imm _ | .asl, .imm _ | .rol, .imm _ | .lsr, .imm _ | .ror, .imm _ => none
  | .stx, .imm _ | .dec, .imm _ | .inc, .imm _ | .bit, .imm _ | .sty, .imm _ => none

/-! ## The decoder -/

/-- How many operand bytes the handler of an opcode fetches (R85, R86). BRK fetches none: its signature
byte is "skipped and never read" (42_special R116). An illegal opcode fetches none (40_dispatch R93). -/
def operandBytes (op : Byte) : Nat :=
  match classify op with
  | .jump _ => 2
  | .jsr => 2
  | .special _ => 0
  | .branch _ => 1
  | .implied _ => 0
  | .common idx bbb =>
    match commonTable idx with
    | none => 0
    | some h =>
      match h.mode bbb with
      | none => 0
      | some m => m.operandBytes

/-- The instruction of an opcode and its operand bytes (R76 to R86). A byte the opcode does not use is
ignored. An opcode that reaches no handler is the illegal handler's (R87). -/
def decodeOp (op b1 b2 : Byte) : Instr :=
  match classify op with
  | .jump ind => if ind then .jmpInd (mkWord b2 b1) else .jmpAbs (mkWord b2 b1)
  | .jsr => .jsr (mkWord b2 b1)
  | .special sel => (specialTable sel).getD (.illegal op)
  | .branch sel => branchTable sel b1
  | .implied idx => (impliedTable idx).getD (.illegal op)
  | .common idx bbb =>
    match commonTable idx with
    | none => .illegal op
    | some h =>
      match h.mode bbb with
      | none => .illegal op
      | some m => (h.instr (m.operand b1 b2)).getD (.illegal op)

/-- Why a list of bytes is no instruction. -/
inductive DecodeError where
  /-- there is no opcode byte -/
  | empty
  /-- the opcode needs more bytes than there are -/
  | truncated (op : Byte)
deriving DecidableEq, Repr

/-- The length of an opcode's instruction in bytes (R85). An illegal opcode "has no length"; it is one
byte here, the byte its handler consumes. -/
def opLength (op : Byte) : Nat := if op = 0x00 then 2 else 1 + operandBytes op

/-- The instruction at the head of a list of bytes, and the bytes after it. -/
def decode : List Byte → Except DecodeError (Instr × List Byte)
  | [] => .error .empty
  | op :: rest =>
    if rest.length + 1 < opLength op then .error (.truncated op)
    else .ok (decodeOp op (rest.getD 0 0) (rest.getD 1 0), rest.drop (opLength op - 1))

/-- The instruction of a word of the opcode table: bits 7..0 the first byte, 15..8 the second, 23..16
the third, and every bit from `nbits` on 0. -/
def decodeTableWord (nbits w : Nat) : Option Instr :=
  let v := w % 2 ^ nbits
  match decode [BitVec.ofNat 8 v, BitVec.ofNat 8 (v / 256), BitVec.ofNat 8 (v / 65536)] with
  | .ok r => some r.1
  | .error _ => none

/-! ## The encoder -/

/-- `opcode = (aaa << 5) | (bbb << 2) | cc` (45, 46, 47, "Encodings"). -/
def commonOpcode (aaa bbb : BitVec 3) (cc : BitVec 2) : Byte := aaa ++ bbb ++ cc

/-- The bbb column of a mode in the table of 45_common_group1 (cc = 01). -/
def bbbGroup1 : Mode → BitVec 3
  | .izx => 0
  | .zp => 1
  | .imm => 2
  | .abs => 3
  | .izy => 4
  | .zpx => 5
  | .aby => 6
  | .abx => 7
  | .zpy => 0

/-- The bbb column of a mode in the tables of 46 and 47 (cc = 10 and cc = 00). -/
def bbbGeneral : Mode → BitVec 3
  | .imm => 0
  | .zp => 1
  | .abs => 3
  | .zpx | .zpy => 5
  | .abx | .aby => 7
  | .izx | .izy => 0

/-- The opcode byte of an instruction (41 to 47). For a term that is not well-formed it is the opcode of
some other form, or an illegal one. -/
def Instr.opcode : Instr → Byte
  | .jmpAbs _ => 0x4C
  | .jmpInd _ => 0x6C
  | .jsr _ => 0x20
  | .brk => 0x00
  | .rti => 0x40
  | .rts => 0x60
  | .bpl _ => 0x10
  | .bmi _ => 0x30
  | .bvc _ => 0x50
  | .bvs _ => 0x70
  | .bcc _ => 0x90
  | .bcs _ => 0xB0
  | .bne _ => 0xD0
  | .beq _ => 0xF0
  | .php => 0x08
  | .plp => 0x28
  | .pha => 0x48
  | .pla => 0x68
  | .clc => 0x18
  | .sec => 0x38
  | .cli => 0x58
  | .sei => 0x78
  | .clv => 0xB8
  | .cld => 0xD8
  | .sed => 0xF8
  | .tax => 0xAA
  | .tay => 0xA8
  | .txa => 0x8A
  | .tya => 0x98
  | .txs => 0x9A
  | .tsx => 0xBA
  | .inx => 0xE8
  | .iny => 0xC8
  | .dex => 0xCA
  | .dey => 0x88
  | .aslA => 0x0A
  | .rolA => 0x2A
  | .lsrA => 0x4A
  | .rorA => 0x6A
  | .nop => 0xEA
  | .ora o => commonOpcode 0 (bbbGroup1 o.mode) 1
  | .and o => commonOpcode 1 (bbbGroup1 o.mode) 1
  | .eor o => commonOpcode 2 (bbbGroup1 o.mode) 1
  | .adc o => commonOpcode 3 (bbbGroup1 o.mode) 1
  | .sta m => commonOpcode 4 (bbbGroup1 m.mode) 1
  | .lda o => commonOpcode 5 (bbbGroup1 o.mode) 1
  | .cmp o => commonOpcode 6 (bbbGroup1 o.mode) 1
  | .sbc o => commonOpcode 7 (bbbGroup1 o.mode) 1
  | .asl m => commonOpcode 0 (bbbGeneral m.mode) 2
  | .rol m => commonOpcode 1 (bbbGeneral m.mode) 2
  | .lsr m => commonOpcode 2 (bbbGeneral m.mode) 2
  | .ror m => commonOpcode 3 (bbbGeneral m.mode) 2
  | .stx m => commonOpcode 4 (bbbGeneral m.mode) 2
  | .ldx o => commonOpcode 5 (bbbGeneral o.mode) 2
  | .dec m => commonOpcode 6 (bbbGeneral m.mode) 2
  | .inc m => commonOpcode 7 (bbbGeneral m.mode) 2
  | .bit m => commonOpcode 1 (bbbGeneral m.mode) 0
  | .sty m => commonOpcode 4 (bbbGeneral m.mode) 0
  | .ldy o => commonOpcode 5 (bbbGeneral o.mode) 0
  | .cpy o => commonOpcode 6 (bbbGeneral o.mode) 0
  | .cpx o => commonOpcode 7 (bbbGeneral o.mode) 0
  | .illegal op => op

/-- The bytes of a memory operand, low byte first (R86, 20_memory R62). -/
def MemOperand.bytes : MemOperand → List Byte
  | .zp a | .zpx a | .zpy a | .izx a | .izy a => [a]
  | .abs w | .abx w | .aby w => [loByte w, hiByte w]

/-- The bytes of an operand. -/
def Operand.bytes : Operand → List Byte
  | .imm v => [v]
  | .mem m => m.bytes

/-- The bytes after the opcode (R74, R86). BRK carries its signature byte, which the assembler writes as
00 (R91). -/
def Instr.operandBytes : Instr → List Byte
  | .jmpAbs w | .jmpInd w | .jsr w => [loByte w, hiByte w]
  | .brk => [0x00]
  | .bpl b | .bmi b | .bvc b | .bvs b | .bcc b | .bcs b | .bne b | .beq b => [b]
  | .ora o | .and o | .eor o | .adc o | .lda o | .cmp o | .sbc o => o.bytes
  | .ldx o | .ldy o | .cpy o | .cpx o => o.bytes
  | .sta m | .asl m | .rol m | .lsr m | .ror m | .stx m | .dec m | .inc m | .bit m | .sty m => m.bytes
  | .rti | .rts | .php | .plp | .pha | .pla | .clc | .sec | .cli | .sei | .clv | .cld | .sed => []
  | .tax | .tay | .txa | .tya | .txs | .tsx | .inx | .iny | .dex | .dey => []
  | .aslA | .rolA | .lsrA | .rorA | .nop | .illegal _ => []

/-- The bytes of a well-formed instruction. -/
def encode (i : Instr) : List Byte := i.opcode :: i.operandBytes

/-- The length of an instruction in bytes, by its family and mode (R85); an illegal opcode takes the one
byte its handler consumes. -/
def Instr.length : Instr → Nat
  | .jmpAbs _ | .jmpInd _ | .jsr _ => 3
  | .brk => 2
  | .bpl _ | .bmi _ | .bvc _ | .bvs _ | .bcc _ | .bcs _ | .bne _ | .beq _ => 2
  | .ora o | .and o | .eor o | .adc o | .lda o | .cmp o | .sbc o => 1 + o.mode.operandBytes
  | .ldx o | .ldy o | .cpy o | .cpx o => 1 + o.mode.operandBytes
  | .sta m | .asl m | .rol m | .lsr m | .ror m => 1 + m.mode.operandBytes
  | .stx m | .dec m | .inc m | .bit m | .sty m => 1 + m.mode.operandBytes
  | .rti | .rts | .php | .plp | .pha | .pla | .clc | .sec | .cli | .sei | .clv | .cld | .sed => 1
  | .tax | .tay | .txa | .tya | .txs | .tsx | .inx | .iny | .dex | .dey => 1
  | .aslA | .rolA | .lsrA | .rorA | .nop | .illegal _ => 1

end Sys2Proof
end

