-- ==== Sys2Proof/Config.lean ====
section
/-! DEFINITION. The implementation parameters of 00_scope R10, each a named field with the value the
spec takes as its default, the free value of the model, and the functions of the bus and chr instances that
the spec leaves open. State holds a `Config`, so a statement over all states holds for every value of the
fields. IRQ_LINE and RUN_SCHEDULE, the remaining rows of that table, are fields of State. -/

namespace Sys2Proof

/-- ILLEGAL_OPCODE_POLICY (R10, 40_dispatch R96). -/
inductive IllegalPolicy where
  | report
  | nop
deriving DecidableEq, Repr

/-- BRANCH_OFFSET_MODE (R10, 43_branch R120). -/
inductive BranchOffsetMode where
  | twosComplement
  | signMagnitude
deriving DecidableEq, Repr

/-- An instance of BUS or of CHR (R10, 20_memory R56, R60): the reference instance, plain memory, or any
other, numbered k, whose functions are the opaque ones at the end of this file (log 5). -/
inductive Platform where
  | reference
  | other (k : Nat)
deriving DecidableEq, Repr

/-- The parameters of R10. FRAME_CYCLES is `Config.frameCycles`, computed as R10 gives it. -/
structure Config where
  illegalOpcodePolicy : IllegalPolicy := .report
  branchOffsetMode    : BranchOffsetMode := .twosComplement
  jmpIndirectPageWrap : Bool := true
  paletteBase         : Nat := 0x3F00
  ppuSpaceSize        : Nat := 0x4000
  dotsPerScanline     : Nat := 341
  scanlinesPerFrame   : Nat := 262
  visibleScanlines    : Nat := 240
  visibleDots         : Nat := 256
  vblankSetPos        : Nat × Nat := (241, 1)
  vblankClearPos      : Nat × Nat := (261, 1)
  presentPos          : Nat × Nat := (240, 0)
  frameCounterWidth   : Nat := 32
  vectorNmi           : Word := 0xFFFA
  vectorReset         : Word := 0xFFFC
  vectorIrq           : Word := 0xFFFE
  stackPage           : Word := 0x0100
  spAfterPowerOn      : Byte := 0xFD
  bus                 : Platform := .reference
  chr                 : Platform := .reference
deriving DecidableEq, Repr

/-- Every parameter at the value R10 takes. -/
def Config.default : Config := {}

/-- FRAME_CYCLES: "the source's fixed per-frame cycle budget B" (R10). -/
abbrev Config.frameCycles (c : Config) : Nat := c.dotsPerScanline * c.scanlinesPerFrame

/-- The cycle of a (scanline, dot) position (10_state R48). -/
abbrev Config.cycleOf (c : Config) (pos : Nat × Nat) : Nat := pos.1 * c.dotsPerScanline + pos.2

/-- 93 U9: a configuration is ill-formed, and refused, when the palette does not fit below the end of
the PPU space or FRAME_CYCLES is below the largest event position. The defaults are well-formed. -/
abbrev Config.wf (c : Config) : Prop :=
  c.paletteBase + 32 ≤ c.ppuSpaceSize ∧ c.cycleOf c.vblankSetPos ≤ c.frameCycles ∧
    c.cycleOf c.vblankClearPos ≤ c.frameCycles ∧ c.cycleOf c.presentPos ≤ c.frameCycles

/-- The parameters that R10 does not mark open have the value it takes; the open ones are free. -/
abbrev Config.standard (c : Config) : Prop :=
  c = { illegalOpcodePolicy := c.illegalOpcodePolicy, branchOffsetMode := c.branchOffsetMode,
        jmpIndirectPageWrap := c.jmpIndirectPageWrap, bus := c.bus, chr := c.chr }

/-- The free value: draw number n. The spec calls these values draws, "any value, under no law"
(93 U14 to U16): nothing constrains them, so a claim holds whatever they are. See log 6. -/
opaque Config.freeByte : Nat → Byte

/-! ## The other instances of BUS and CHR (log 5)

Instance k is a machine outside the block. Its own state, of which the block knows nothing, is the list
`bus.ext` of State; BUS and CHR share it, as the two sides of one cartridge do. The four functions have no
body, so a claim about instance k holds of every bus and of every chr space. -/

/-- `BUS.load(a)` of bus k (20_memory R56): the byte, and the effect of the load ("whatever effect `BUS` gives
them", R65). -/
opaque Config.busLoad : Nat → List Nat → Word → Byte × List Nat

/-- `BUS.write(a, v)` of bus k (20_memory R56). -/
opaque Config.busWrite : Nat → List Nat → Word → Byte → List Nat

/-- `chr_load(a)` of chr space k (20_memory R60): the block "assumes nothing of the result". -/
opaque Config.chrLoad : Nat → List Nat → Nat → Byte × List Nat

/-- `chr_store(a, v)` of chr space k (20_memory R60). -/
opaque Config.chrStore : Nat → List Nat → Nat → Byte → List Nat

end Sys2Proof
end

