-- ==== Sys2Proof/Machine/State.lean ====
section
/-! DEFINITION. The state of the block (10_state), of the reference bus and chr space (20_memory R56,
R60) and of the run loop at the block's interface (60_exceptions R241), all of it plain data; the faults
and refusals of a step; and the state right after reset (70_reset R248). -/

namespace Sys2Proof.Machine

/-- A byte memory: (address, byte) pairs with addresses strictly rising and no byte equal to what an
unlisted address reads as (`Memory.wf`, Machine/Memory.lean). -/
abbrev Memory := List Host.Cell

/-- The CPU's six registers (R20). `p` is "stored as a single fixed-width unsigned integer" (R26). -/
structure Cpu where
  a  : Byte
  x  : Byte
  y  : Byte
  s  : Byte
  p  : Byte
  pc : Word
deriving DecidableEq, Repr

/-- The flags of P (R26); their bit positions are `Flag.bit` in Machine/Flags.lean. -/
inductive Flag where
  | n | v | u | b | d | i | z | c
deriving DecidableEq, Repr

/-- The eight PPU register identities (R36). -/
inductive PpuReg where
  | control | mask | status | oamAddr | oamData | scroll | address | data
deriving DecidableEq, Repr

/-- An address-toggle latch (R40, R41); `expectHi` true means the next write sets the high byte. -/
structure ToggleLatch where
  hi       : Byte
  lo       : Byte
  expectHi : Bool
deriving DecidableEq, Repr

/-- A secondary-OAM record (R44, 49 R215). -/
structure SpriteRecord where
  y    : Byte
  tile : Byte
  attr : Byte
  x    : Byte
deriving DecidableEq, Repr

/-- The PPU's registers, tables and counters (R37 to R50). -/
structure Ppu where
  control     : Byte
  mask        : Byte
  vblank      : Bool
  spr0Hit     : Bool
  sprOverflow : Bool
  scroll      : ToggleLatch
  addr        : ToggleLatch
  oamAddr     : Byte
  oam         : Memory
  secondary   : Vector SpriteRecord 8
  spr0OnLine  : Bool
  palette     : Memory
  tileReg     : Word
  cycle       : Nat
  scanline    : Nat
  dot         : Nat
  oddFrame    : Bool
  frames      : Nat
deriving DecidableEq, Repr

/-- What the bus holds, "as far as the block can observe it" (R51); the memories of the reference instances of
BUS and CHR (20_memory R56, R60), and in `ext` the state of whatever other instance there is (log 5). -/
structure Bus where
  mem          : Memory
  chr          : Memory
  pendingWrite : Option (Byte × PpuReg)
  pendingRead  : Option PpuReg
  staged       : Byte
  statusView   : Byte
  ext          : List Nat
deriving DecidableEq, Repr

/-- A call on the drawing surface (00_scope R14: `SetPixel(x, y, c)`, `Present()`). -/
inductive SurfaceCall where
  | setPixel (x y : Nat) (c : Byte)
  | present
deriving DecidableEq, Repr

/-- What the boundary decision of 60_exceptions R230 resets: the CPU, or the whole console. -/
inductive ResetKind where
  | cpu
  | console
deriving DecidableEq, Repr

/-- A call the run loop makes: the list of 60_exceptions R241, the boundary decision of R230, the bus's
reset (70_reset R247), the run loop's own inputs (R229, R230), what R235 lets it change between steps
("change memory or PC"), and a change of the platform outside the block (log 17). `NmiOutput()` and the
reading of `ppu.frames` change nothing, so they are functions of the state and not calls here. -/
inductive Call where
  | cpuStep
  | cpuNmi
  | cpuIrq
  | cpuReset
  | ppuStep
  | ppuReset
  | oamDma (bytes : Vector Byte 256)
  | ppuResetFrames
  | boundary
  | busReset
  | setIrqLine (level : Bool)
  | requestReset (kind : ResetKind)
  | hostWrite (a : Word) (v : Byte)
  | hostChrWrite (a : Word) (v : Byte)
  | hostSetPc (w : Word)
  | hostSetExt (e : List Nat)
deriving DecidableEq, Repr

/-- RUN_SCHEDULE (R10, 70_reset R258): `open` makes exactly the calls listed, `conventional` follows each
call with the PPU steps and the boundary decision of R258. -/
inductive Schedule where
  | open
  | conventional
deriving DecidableEq, Repr

/-- The outcome a completed call returned (40_dispatch R95, 60_exceptions R227). A failure is a `Fault`. -/
inductive CallOutcome where
  | ok
  | masked
  | illegalAsNop (op : Byte) (pc : Word)
deriving DecidableEq, Repr

/-- The run loop, as far as the block's rules name it (60_exceptions R228 to R230, 70_reset R258). -/
structure RunLoop where
  nmiPending   : Bool
  irqLine      : Bool
  resetRequest : Option ResetKind
  schedule     : Schedule
  calls        : List Call
  outcome      : CallOutcome
deriving DecidableEq, Repr

/-- The machine. `surface` is the list of calls the most recent PPU step made on the drawing surface,
`cfg` the parameters of R10, `draws` the number of free values drawn so far (log 6). -/
structure State where
  cpu     : Cpu
  ppu     : Ppu
  bus     : Bus
  surface : List SurfaceCall
  host    : RunLoop
  cfg     : Config
  draws   : Nat
deriving DecidableEq, Repr

/-- The failures of 60_exceptions R223. Each is a stop where the spec's step returns a failure to the run loop,
so each is safe; `left` is the state it leaves, from which the run loop may go on (R235, log 10). -/
inductive Fault where
  /-- code 4: an illegal opcode under the policy Report (40_dispatch R96); raised by `execIllegal`. It leaves PC
  at the opcode, and "the opcode fetch's own read". Safe. -/
  | illegalOpcode (op : Byte) (pc : Word) (left : State)
  /-- code 5: a DATA access at or above PPU_SPACE_SIZE (48 R199); raised by `ppuStep`. It "leaves every part of
  the state as it was before the call" (48 R181). Safe. -/
  | ppuFatal (a : Word) (left : State)
deriving DecidableEq, Repr

/-- Why a step is refused. -/
inductive Refusal where
  /-- an instruction with no meaning; no arm of `exec` answers so any more. Safe. -/
  | notModelled (mnemonic : String)
  /-- a configuration outside the bounds of 93 U9, which the spec says to refuse; raised by `step`. Safe. -/
  | illFormedConfig
deriving DecidableEq, Repr

/-- The empty sentinel (R44): every byte 0xFF. -/
def SpriteRecord.empty : SpriteRecord := ⟨0xFF, 0xFF, 0xFF, 0xFF⟩

/-- A latch after a reset: hi 0, lo 0, expect_hi 1 (R40, R41). -/
def ToggleLatch.reset : ToggleLatch := ⟨0x00, 0x00, true⟩

/-- The state right after power-on and the resets (70_reset R248): PC is Read16(0xFFFC) of a memory with
nothing listed (log 4); A, X, Y and the flags N, V, D, Z, C (log 1), OAM and the palette (log 2) and
`staged` (log 3) are unspecified there and 0 here; the run loop's 21 PPU steps after a reset entry (70
R258) are still to come (log 8). -/
def State.reset : State where
  cpu := ⟨0x00, 0x00, 0x00, 0xFD, 0x24, 0x0000⟩
  ppu :=
    { control := 0x00, mask := 0x00, vblank := false, spr0Hit := false, sprOverflow := false,
      scroll := ToggleLatch.reset, addr := ToggleLatch.reset, oamAddr := 0x00, oam := [],
      secondary := Vector.replicate 8 SpriteRecord.empty, spr0OnLine := false, palette := [],
      tileReg := 0x0000, cycle := 0, scanline := 0, dot := 0, oddFrame := false, frames := 0 }
  bus := ⟨[], [], none, none, 0x00, 0x00, []⟩
  surface := []
  host := ⟨false, false, none, .conventional, List.replicate 21 .ppuStep, .ok⟩
  cfg := Config.default
  draws := 0

end Sys2Proof.Machine
end

