-- ==== Sys2Proof/Machine/Flags.lean ====
section
/-! DEFINITION. The status register's flags (10_state R26) and every flag and arithmetic computation the
instructions share (40_dispatch R107 to R112). -/

namespace Sys2Proof.Machine

/-! ## Access by named accessor (R26) -/

/-- "Negative(7), Overflow(6), unused(5), Break(4), Decimal(3), Interrupt-disable(2), Zero(1), Carry(0)". -/
def Flag.bit : Flag → Nat
  | .n => 7
  | .v => 6
  | .u => 5
  | .b => 4
  | .d => 3
  | .i => 2
  | .z => 1
  | .c => 0

/-- Reads a flag of a status byte. -/
def getFlag (p : Byte) (f : Flag) : Bool := p.getLsbD f.bit

/-- Writes one flag of a status byte. -/
def putFlag (p : Byte) (f : Flag) (v : Bool) : Byte :=
  if v then p ||| (1#8 <<< f.bit) else p &&& ~~~(1#8 <<< f.bit)

/-- `P.F`. -/
def State.flag (s : State) (f : Flag) : Bool := getFlag s.cpu.p f

/-- `P.F <- v`. -/
def State.setFlag (s : State) (f : Flag) (v : Bool) : State :=
  { s with cpu := { s.cpu with p := putFlag s.cpu.p f v } }

/-- `SetZN(r)` (R107): "Zero flag set iff the instruction's result register equals zero; Negative flag
mirrors bit 7 of the result". -/
def State.setZN (s : State) (r : Byte) : State := (s.setFlag .z (r == 0)).setFlag .n (r.getLsbD 7)

/-! ## Arithmetic (R108 to R110) -/

/-- What the adder yields: the result, the carry out of bit 7, and signed overflow. -/
structure AddResult where
  r : Byte
  c : Bool
  v : Bool
deriving DecidableEq, Repr

/-- `AddWithCarry(a, m, cin)` (R108): the sum as an unbounded integer, narrowed at the end; "signed
overflow via the standard (result XOR operand1) AND (result XOR operand2) AND sign-bit test". -/
def addWithCarry (a m : Byte) (cin : Bool) : AddResult :=
  let sum := a.toNat + m.toNat + cin.toNat
  let r := BitVec.ofNat 8 sum
  ⟨r, decide (255 < sum), ((r ^^^ a) &&& (r ^^^ m) &&& 0x80) != 0⟩

/-- `Compare(r, m)` (R109): C, Z and N from the unsigned comparison and the difference; V unchanged. -/
def State.compare (s : State) (r m : Byte) : State :=
  ((s.setFlag .c (decide (m.toNat ≤ r.toNat))).setFlag .z (r == m)).setFlag .n ((r - m).getLsbD 7)

/-- What a shift or rotate yields: the result and the bit shifted out. -/
structure ShiftResult where
  r : Byte
  c : Bool
deriving DecidableEq, Repr

/-- `ShiftLeft(v)` (R110). -/
def shiftLeft (v : Byte) : ShiftResult := ⟨v <<< 1, v.getLsbD 7⟩

/-- `ShiftRight(v)` (R110). -/
def shiftRight (v : Byte) : ShiftResult := ⟨v >>> 1, v.getLsbD 0⟩

/-- `RotateLeft(v, cin)` (R110). -/
def rotateLeft (v : Byte) (cin : Bool) : ShiftResult := ⟨(v <<< 1) ||| (BitVec.ofBool cin).setWidth 8, v.getLsbD 7⟩

/-- `RotateRight(v, cin)` (R110). -/
def rotateRight (v : Byte) (cin : Bool) : ShiftResult :=
  ⟨(v >>> 1) ||| ((BitVec.ofBool cin).setWidth 8 <<< 7), v.getLsbD 0⟩

/-! ## P on the stack (R112) -/

/-- `PushedP(b) = (P | 0x20) with bit 4 = b`. -/
def pushedP (p : Byte) (b : Bool) : Byte := putFlag (p ||| 0x20) .b b

/-- `SetPFromPulled(v)`: `P <- (v & 0xCF) | 0x20`. -/
def pulledP (v : Byte) : Byte := (v &&& 0xCF) ||| 0x20

end Sys2Proof.Machine
end

