-- ==== Sys2Proof/Machine/Memory.lean ====
section
/-! DEFINITION. A byte memory in one canonical form, its one read and its one write. CPU memory, chr
space, primary OAM and the palette are each such a memory. -/

namespace Sys2Proof.Machine

/-- What an address that nothing has written reads as. The spec leaves it unspecified (20_memory R56,
93 U13, U17); the model reads 0x00 (logs 2 and 4). -/
def unlistedByte : Byte := 0x00

/-- The byte at an address. -/
def Memory.read : Memory → Nat → Byte
  | [], _ => unlistedByte
  | c :: m, a => if a = c.1 then c.2 else Memory.read m a

/-- Puts a byte at an address the memory does not list, in address order. -/
def Memory.insert : Memory → Nat → Byte → Memory
  | [], a, v => [(a, v)]
  | c :: m, a, v => if a < c.1 then (a, v) :: c :: m else c :: Memory.insert m a v

/-- Writes a byte. Writing what an unlisted address reads as takes the entry out, so that equal memories
are equal lists. -/
def Memory.write (m : Memory) (a : Nat) (v : Byte) : Memory :=
  let rest : Memory := m.filter (fun c => c.1 != a)
  if v = unlistedByte then rest else rest.insert a v

/-- The canonical form: addresses strictly rising, no byte equal to `unlistedByte`. -/
abbrev Memory.wf (m : Memory) : Prop :=
  m.Pairwise (fun c d => c.1 < d.1) ∧ ∀ c ∈ m, c.2 ≠ unlistedByte

/-- Every listed address is below a bound. -/
abbrev Memory.below (m : Memory) (n : Nat) : Prop := ∀ c ∈ m, c.1 < n

end Sys2Proof.Machine
end

