-- ==== Sys2Proof/Machine/Ops.lean ====
section
/-! DEFINITION. The named operations over registers, the bus and the stack (00_scope R14, 20_memory,
40_dispatch R103 to R105), taking an exception and returning from one (60_exceptions R225, 42_special
R116, R117), and the CPU's entry calls (R226, R227, 70_reset R244). -/

namespace Sys2Proof.Machine

/-! ## Registers -/

/-- `A <- v`. -/
def State.setA (s : State) (v : Byte) : State := { s with cpu := { s.cpu with a := v } }

/-- `X <- v`. -/
def State.setX (s : State) (v : Byte) : State := { s with cpu := { s.cpu with x := v } }

/-- `Y <- v`. -/
def State.setY (s : State) (v : Byte) : State := { s with cpu := { s.cpu with y := v } }

/-- `S <- v`. -/
def State.setS (s : State) (v : Byte) : State := { s with cpu := { s.cpu with s := v } }

/-- `P <- v`. -/
def State.setP (s : State) (v : Byte) : State := { s with cpu := { s.cpu with p := v } }

/-- `PC <- w`. -/
def State.setPc (s : State) (w : Word) : State := { s with cpu := { s.cpu with pc := w } }

/-! ## The CPU bus (20_memory R53 to R56) -/

/-- The PPU register a CPU address decodes to (10_state R36): 0x2000..0x2007, mirrored every 8 through
0x3FFF. -/
def ppuRegAt (a : Word) : Option PpuReg :=
  if 0x2000 ≤ a.toNat ∧ a.toNat ≤ 0x3FFF then
    match a.toNat % 8 with
    | 0 => some .control
    | 1 => some .mask
    | 2 => some .status
    | 3 => some .oamAddr
    | 4 => some .oamData
    | 5 => some .scroll
    | 6 => some .address
    | _ => some .data
  else none

/-- The byte the reference bus's memory holds at an address (20_memory R56). Looking at it so has no side
effect. -/
def State.peek (s : State) (a : Word) : Byte := s.bus.mem.read a.toNat

/-- Consumes one free value by counting it (log 6). -/
def State.nextDraw (s : State) : State := { s with draws := s.draws + 1 }

/-- The value the bus returns for a read of a PPU register (R55). -/
def State.regReadValue (s : State) (r : PpuReg) : Byte :=
  match r with
  | .status => s.bus.statusView
  | .data => s.bus.staged
  | .control | .mask | .oamAddr | .oamData | .scroll | .address => Config.freeByte s.draws

/-- What a read of a PPU register does: it becomes the pending read (R55), and a value that is a draw is
a fresh one at the next read (93 U15). -/
def State.noteRegRead (s : State) (r : PpuReg) : State :=
  let s' : State := { s with bus := { s.bus with pendingRead := some r } }
  match r with
  | .status | .data => s'
  | .control | .mask | .oamAddr | .oamData | .scroll | .address => s'.nextDraw

/-- The state of the platform outside the block becomes e (log 5). -/
def State.setExt (s : State) (e : List Nat) : State := { s with bus := { s.bus with ext := e } }

/-- `BUS.load(a)` (R56): the reference bus is memory and its loads have no side effect; a load of another bus
has the effect that bus gives it (R65). -/
def busLoad (a : Word) (s : State) : Byte × State :=
  match s.cfg.bus with
  | .reference => (s.peek a, s)
  | .other k =>
    let r := Config.busLoad k s.bus.ext a
    (r.1, s.setExt r.2)

/-- `BUS.write(a, v)` (R56). -/
def busWrite (a : Word) (v : Byte) (s : State) : State :=
  match s.cfg.bus with
  | .reference => { s with bus := { s.bus with mem := s.bus.mem.write a.toNat v } }
  | .other k => s.setExt (Config.busWrite k s.bus.ext a v)

/-- `MemRead(a, 1)`: the byte, and the state after the read. Every read of the CPU, instruction fetch
included, is this one (R53, R65); an address that is no PPU register belongs to BUS (R56). -/
def memRead (a : Word) (s : State) : Byte × State :=
  match ppuRegAt a with
  | none => busLoad a s
  | some r => (s.regReadValue r, s.noteRegRead r)

/-- `MemWrite(a, 1, v)`: a write to a PPU register only becomes the pending write (R54); any other address
belongs to BUS (R56). -/
def memWrite (a : Word) (v : Byte) (s : State) : State :=
  match ppuRegAt a with
  | none => busWrite a v s
  | some r => { s with bus := { s.bus with pendingWrite := some (v, r) } }

/-- `Read16(a)` (00_scope R14): two reads, low address first. -/
def read16 (a : Word) (s : State) : Word × State :=
  let l := memRead a s
  let h := memRead (a + 1) l.2
  (mkWord h.1 l.1, h.2)

/-! ## The stack (40_dispatch R103 to R105) -/

/-- The stack byte S names: `0x0100 | S` (10_state R23). -/
def State.stackAddr (s : State) : Word := s.cfg.stackPage ||| s.cpu.s.setWidth 16

/-- `Push(b)`: "push writes at the current stack pointer then decrements it". -/
def push (b : Byte) (s : State) : State :=
  let t := memWrite s.stackAddr b s
  t.setS (t.cpu.s - 1)

/-- `Pull()`: "pop increments the stack pointer then reads". -/
def pull (s : State) : Byte × State :=
  let t := s.setS (s.cpu.s + 1)
  memRead t.stackAddr t

/-- `PushWord(w)`: high byte first. -/
def pushWord (w : Word) (s : State) : State := push (loByte w) (push (hiByte w) s)

/-- `PullWord()`: low byte first. -/
def pullWord (s : State) : Word × State :=
  let l := pull s
  let h := pull l.2
  (mkWord h.1 l.1, h.2)

/-! ## Taking an exception and returning from one -/

/-- The entry sequence of BRK, NMI and IRQ (42_special R116, 60_exceptions R225): the return address and
P pushed, P.I set, PC loaded from the vector. `b` is the Break bit of the pushed P. -/
def takeException (ret : Word) (b : Bool) (vector : Word) (s : State) : State :=
  let s1 := pushWord ret s
  let s2 := push (pushedP s1.cpu.p b) s1
  let s3 := s2.setFlag .i true
  let v := read16 vector s3
  v.2.setPc v.1

/-- The return (42_special R117): P from the pulled byte, then PC from the pulled word, "no +1". -/
def returnFromException (s : State) : State :=
  let p := pull s
  let s1 := p.2.setP (pulledP p.1)
  let w := pullWord s1
  w.2.setPc w.1

/-! ## The entry calls the run loop makes -/

/-- `InterruptEntry(vector, 0)` (R225), with PC the address of the next instruction. -/
def interruptEntry (vector : Word) (s : State) : State := takeException s.cpu.pc false vector s

/-- Records what the call returned (40_dispatch R95, 60_exceptions R227). -/
def State.setOutcome (s : State) (o : CallOutcome) : State := { s with host := { s.host with outcome := o } }

/-- `cpu_nmi()` (R226): P.I does not gate it. -/
def cpuNmi (s : State) : State := interruptEntry s.cfg.vectorNmi s

/-- `cpu_irq()` (R227): `Masked`, and nothing else, when P.I = 1. -/
def cpuIrq (s : State) : State :=
  if s.flag .i then s.setOutcome .masked else interruptEntry s.cfg.vectorIrq s

/-- `cpu_reset()` (70_reset R244): "no memory is written"; the vector's two reads are the only accesses. -/
def cpuReset (s : State) : State :=
  let s1 := s.setS (s.cpu.s - 3)
  let s2 := ((s1.setFlag .i true).setFlag .u true).setFlag .b false
  let v := read16 s2.cfg.vectorReset s2
  v.2.setPc v.1

/-- `power_on()` (70_reset R245), for the CPU: S such that the first `cpu_reset` gives SP_AFTER_POWER_ON,
U = 1, B = 0, I = 1. What R245 leaves unspecified is the given state's. -/
def powerOn (s : State) : State :=
  (((s.setS (s.cfg.spAfterPowerOn + 3)).setFlag .u true).setFlag .b false).setFlag .i true

end Sys2Proof.Machine
end

