-- ==== Sys2Proof/Machine/Operands.lean ====
section
/-! DEFINITION. Every operand form: effective addresses, operand reads, stores and read-modify-write
(40_dispatch R99 to R102), and the branch displacement (43_branch R120). The operand's own bytes are in
the instruction: they were fetched, in order, before its meaning runs (R98, Machine/Fetch.lean). -/

namespace Sys2Proof.Machine

/-- A pointer in zero page: low byte at p, high byte at (p + 1) mod 256 (R99, izx and izy). -/
def readPointer (p : Byte) (s : State) : Word × State :=
  let l := memRead (p.setWidth 16) s
  let h := memRead ((p + 1).setWidth 16) l.2
  (mkWord h.1 l.1, h.2)

/-- `EA(mode)` (R99): zero-page arithmetic wraps within page zero, absolute indexing modulo 2^16. -/
def effectiveAddress (m : MemOperand) (s : State) : Word × State :=
  match m with
  | .zp a => (a.setWidth 16, s)
  | .zpx a => ((a + s.cpu.x).setWidth 16, s)
  | .zpy a => ((a + s.cpu.y).setWidth 16, s)
  | .abs w => (w, s)
  | .abx w => (w + s.cpu.x.setWidth 16, s)
  | .aby w => (w + s.cpu.y.setWidth 16, s)
  | .izx a => readPointer (a + s.cpu.x) s
  | .izy a =>
    let p := readPointer a s
    (p.1 + p.2.cpu.y.setWidth 16, p.2)

/-- `MemRead(EA(mode), 1)` (R100). -/
def readMem (m : MemOperand) (s : State) : Byte × State :=
  let e := effectiveAddress m s
  memRead e.1 e.2

/-- `Operand(mode)` (R100): the immediate byte, or exactly one data read. -/
def readOperand (o : Operand) (s : State) : Byte × State :=
  match o with
  | .imm v => (v, s)
  | .mem m => readMem m s

/-- `Store(mode, v)` (R101): no data read of the target. -/
def store (m : MemOperand) (v : Byte) (s : State) : State :=
  let e := effectiveAddress m s
  memWrite e.1 v e.2

/-- `Modify(mode, f)` (R102): one read and then one write at the same address. It gives the byte read
and the state after the write. -/
def modify (m : MemOperand) (f : Byte → Byte) (s : State) : Byte × State :=
  let e := effectiveAddress m s
  let v := memRead e.1 e.2
  (v.1, memWrite e.1 (f v.1) v.2)

/-- `BranchOffset(b)` (43_branch R120), a value added modulo 2^16, in the reading BRANCH_OFFSET_MODE
selects. -/
def branchOffset (mode : BranchOffsetMode) (b : Byte) : Word :=
  match mode with
  | .twosComplement => b.signExtend 16
  | .signMagnitude => if b.getLsbD 7 then 0 - (b &&& 0x7F).setWidth 16 else b.setWidth 16

/-- The common branch semantics (R121): the operand byte is fetched already, so PC is pc0 + 2. -/
def branchIf (cond : Bool) (b : Byte) (s : State) : State :=
  if cond then s.setPc (s.cpu.pc + branchOffset s.cfg.branchOffsetMode b) else s

end Sys2Proof.Machine
end

