-- ==== Sys2Proof/Machine/Branch.lean ====
section
/-! DEFINITION. The Branch family (43_branch R121 to R129). -/

namespace Sys2Proof.Machine

/-- BPL, branch on plus (R122). -/
def execBpl (rel : Byte) (s : State) : Host.Outcome State Fault Refusal := .next (branchIf (!s.flag .n) rel s)

/-- BMI, branch on minus (R123). -/
def execBmi (rel : Byte) (s : State) : Host.Outcome State Fault Refusal := .next (branchIf (s.flag .n) rel s)

/-- BVC, branch on overflow clear (R124). -/
def execBvc (rel : Byte) (s : State) : Host.Outcome State Fault Refusal := .next (branchIf (!s.flag .v) rel s)

/-- BVS, branch on overflow set (R125). -/
def execBvs (rel : Byte) (s : State) : Host.Outcome State Fault Refusal := .next (branchIf (s.flag .v) rel s)

/-- BCC, branch on carry clear (R126). -/
def execBcc (rel : Byte) (s : State) : Host.Outcome State Fault Refusal := .next (branchIf (!s.flag .c) rel s)

/-- BCS, branch on carry set (R127). -/
def execBcs (rel : Byte) (s : State) : Host.Outcome State Fault Refusal := .next (branchIf (s.flag .c) rel s)

/-- BNE, branch on not equal (R128). -/
def execBne (rel : Byte) (s : State) : Host.Outcome State Fault Refusal := .next (branchIf (!s.flag .z) rel s)

/-- BEQ, branch on equal (R129). -/
def execBeq (rel : Byte) (s : State) : Host.Outcome State Fault Refusal := .next (branchIf (s.flag .z) rel s)

end Sys2Proof.Machine
end

