-- ==== Sys2Proof/Machine/Group0.lean ====
section
/-! DEFINITION. The Common family, group cc = 00 (47_common_group0): BIT, STY, LDY, CPY, CPX; and the illegal handler
of every unassigned slot (40_dispatch R96, 44_implied R156, 47 R178). -/

namespace Sys2Proof.Machine

/-- BIT (R173): Z from A AND M; N and V copied from bits 7 and 6 of M. -/
def execBit (m : MemOperand) (s : State) : Host.Outcome State Fault Refusal :=
  let v := readMem m s
  .next (((v.2.setFlag .z (s.cpu.a &&& v.1 == 0)).setFlag .n (v.1.getLsbD 7)).setFlag .v (v.1.getLsbD 6))

/-- STY (R174). -/
def execSty (m : MemOperand) (s : State) : Host.Outcome State Fault Refusal := .next (store m s.cpu.y s)

/-- LDY (R175). -/
def execLdy (o : Operand) (s : State) : Host.Outcome State Fault Refusal :=
  let m := readOperand o s
  .next ((m.2.setY m.1).setZN m.1)

/-- CPY (R176). -/
def execCpy (o : Operand) (s : State) : Host.Outcome State Fault Refusal :=
  let m := readOperand o s
  .next (m.2.compare s.cpu.y m.1)

/-- CPX (R177). -/
def execCpx (o : Operand) (s : State) : Host.Outcome State Fault Refusal :=
  let m := readOperand o s
  .next (m.2.compare s.cpu.x m.1)

/-- `Illegal(op, pc0)` (40_dispatch R96); PC is pc0 + 1. Under Report the step fails with IllegalOpcode, PC goes
back to pc0, and what is left is the state with "the opcode fetch's own read" in it; under Nop "one byte consumed,
no other effect", and the outcome is IllegalAsNop. -/
def execIllegal (op : Byte) (s : State) : Host.Outcome State Fault Refusal :=
  match s.cfg.illegalOpcodePolicy with
  | .report => .fault (.illegalOpcode op (s.cpu.pc - 1) (s.setPc (s.cpu.pc - 1)))
  | .nop => .next (s.setOutcome (.illegalAsNop op (s.cpu.pc - 1)))

end Sys2Proof.Machine
end

