-- ==== Sys2Proof/Machine/Group1.lean ====
section
/-! DEFINITION. The Common family, group cc = 01 (45_common_group1): ORA, AND, EOR, ADC, STA, LDA, CMP, SBC. -/

namespace Sys2Proof.Machine

/-- ORA (R157). -/
def execOra (o : Operand) (s : State) : Host.Outcome State Fault Refusal :=
  let m := readOperand o s
  .next ((m.2.setA (s.cpu.a ||| m.1)).setZN (s.cpu.a ||| m.1))

/-- AND (R158). -/
def execAnd (o : Operand) (s : State) : Host.Outcome State Fault Refusal :=
  let m := readOperand o s
  .next ((m.2.setA (s.cpu.a &&& m.1)).setZN (s.cpu.a &&& m.1))

/-- EOR (R159). -/
def execEor (o : Operand) (s : State) : Host.Outcome State Fault Refusal :=
  let m := readOperand o s
  .next ((m.2.setA (s.cpu.a ^^^ m.1)).setZN (s.cpu.a ^^^ m.1))

/-- `A <- r; P.C <- c; P.V <- v; SetZN(A)`, the end of ADC and SBC. -/
def addToAccumulator (r : AddResult) (s : State) : State :=
  (((s.setA r.r).setFlag .c r.c).setFlag .v r.v).setZN r.r

/-- ADC (R160): binary whatever P.D holds. -/
def execAdc (o : Operand) (s : State) : Host.Outcome State Fault Refusal :=
  let m := readOperand o s
  .next (addToAccumulator (addWithCarry s.cpu.a m.1 (s.flag .c)) m.2)

/-- STA (R161). -/
def execSta (m : MemOperand) (s : State) : Host.Outcome State Fault Refusal := .next (store m s.cpu.a s)

/-- LDA (R162). -/
def execLda (o : Operand) (s : State) : Host.Outcome State Fault Refusal :=
  let m := readOperand o s
  .next ((m.2.setA m.1).setZN m.1)

/-- CMP (R163): A is not written. -/
def execCmp (o : Operand) (s : State) : Host.Outcome State Fault Refusal :=
  let m := readOperand o s
  .next (m.2.compare s.cpu.a m.1)

/-- SBC (R164): the adder with the operand complemented; P.C = 1 is no borrow. -/
def execSbc (o : Operand) (s : State) : Host.Outcome State Fault Refusal :=
  let m := readOperand o s
  .next (addToAccumulator (addWithCarry s.cpu.a (~~~m.1) (s.flag .c)) m.2)

end Sys2Proof.Machine
end

