-- ==== Sys2Proof/Machine/Group2.lean ====
section
/-! DEFINITION. The Common family, group cc = 10 (46_common_group2): ASL, ROL, LSR, ROR, STX, LDX, DEC, INC on memory. -/

namespace Sys2Proof.Machine

/-- A shift or rotate of memory (R165): one read, one write, `P.C <- c; SetZN(r)`. -/
def shiftMemory (m : MemOperand) (f : Byte → ShiftResult) (s : State) : State :=
  let v := modify m (fun b => (f b).r) s
  (v.2.setFlag .c (f v.1).c).setZN (f v.1).r

/-- ASL of memory (R165). -/
def execAsl (m : MemOperand) (s : State) : Host.Outcome State Fault Refusal := .next (shiftMemory m shiftLeft s)

/-- ROL of memory (R166). -/
def execRol (m : MemOperand) (s : State) : Host.Outcome State Fault Refusal := .next (shiftMemory m (fun b => rotateLeft b (s.flag .c)) s)

/-- LSR of memory (R167). -/
def execLsr (m : MemOperand) (s : State) : Host.Outcome State Fault Refusal := .next (shiftMemory m shiftRight s)

/-- ROR of memory (R168). -/
def execRor (m : MemOperand) (s : State) : Host.Outcome State Fault Refusal := .next (shiftMemory m (fun b => rotateRight b (s.flag .c)) s)

/-- STX (R169). -/
def execStx (m : MemOperand) (s : State) : Host.Outcome State Fault Refusal := .next (store m s.cpu.x s)

/-- LDX (R170). -/
def execLdx (o : Operand) (s : State) : Host.Outcome State Fault Refusal :=
  let m := readOperand o s
  .next ((m.2.setX m.1).setZN m.1)

/-- DEC (R171). -/
def execDec (m : MemOperand) (s : State) : Host.Outcome State Fault Refusal :=
  let v := modify m (fun b => b - 1) s
  .next (v.2.setZN (v.1 - 1))

/-- INC (R172). -/
def execInc (m : MemOperand) (s : State) : Host.Outcome State Fault Refusal :=
  let v := modify m (fun b => b + 1) s
  .next (v.2.setZN (v.1 + 1))

end Sys2Proof.Machine
end

