-- ==== Sys2Proof/Machine/Implied.lean ====
section
/-! DEFINITION. The Implied family (44_implied): stack, flags, transfers, increments, accumulator shifts, NOP. -/

namespace Sys2Proof.Machine

/-! ## Stack push and pull -/

/-- PHP (R130). -/
def execPhp (s : State) : Host.Outcome State Fault Refusal := .next (push (pushedP s.cpu.p true) s)

/-- PLP (R131). -/
def execPlp (s : State) : Host.Outcome State Fault Refusal :=
  let v := pull s
  .next (v.2.setP (pulledP v.1))

/-- PHA (R132). -/
def execPha (s : State) : Host.Outcome State Fault Refusal := .next (push s.cpu.a s)

/-- PLA (R133). -/
def execPla (s : State) : Host.Outcome State Fault Refusal :=
  let v := pull s
  .next ((v.2.setA v.1).setZN v.1)

/-! ## Flag set and clear -/

/-- CLC (R134). -/
def execClc (s : State) : Host.Outcome State Fault Refusal := .next (s.setFlag .c false)

/-- SEC (R135). -/
def execSec (s : State) : Host.Outcome State Fault Refusal := .next (s.setFlag .c true)

/-- CLI (R136). -/
def execCli (s : State) : Host.Outcome State Fault Refusal := .next (s.setFlag .i false)

/-- SEI (R137). -/
def execSei (s : State) : Host.Outcome State Fault Refusal := .next (s.setFlag .i true)

/-- CLV (R138). -/
def execClv (s : State) : Host.Outcome State Fault Refusal := .next (s.setFlag .v false)

/-- CLD (R139). -/
def execCld (s : State) : Host.Outcome State Fault Refusal := .next (s.setFlag .d false)

/-- SED (R140). -/
def execSed (s : State) : Host.Outcome State Fault Refusal := .next (s.setFlag .d true)

/-! ## Register transfers -/

/-- TAX (R141). -/
def execTax (s : State) : Host.Outcome State Fault Refusal := .next ((s.setX s.cpu.a).setZN s.cpu.a)

/-- TAY (R142). -/
def execTay (s : State) : Host.Outcome State Fault Refusal := .next ((s.setY s.cpu.a).setZN s.cpu.a)

/-- TXA (R143). -/
def execTxa (s : State) : Host.Outcome State Fault Refusal := .next ((s.setA s.cpu.x).setZN s.cpu.x)

/-- TYA (R144). -/
def execTya (s : State) : Host.Outcome State Fault Refusal := .next ((s.setA s.cpu.y).setZN s.cpu.y)

/-- TXS (R145), "the one transfer that writes no flag". -/
def execTxs (s : State) : Host.Outcome State Fault Refusal := .next (s.setS s.cpu.x)

/-- TSX (R146). -/
def execTsx (s : State) : Host.Outcome State Fault Refusal := .next ((s.setX s.cpu.s).setZN s.cpu.s)

/-! ## Increment and decrement of X and Y: "wraps modulo 256, updates Zero and Negative only" -/

/-- INX (R147). -/
def execInx (s : State) : Host.Outcome State Fault Refusal := .next ((s.setX (s.cpu.x + 1)).setZN (s.cpu.x + 1))

/-- INY (R148). -/
def execIny (s : State) : Host.Outcome State Fault Refusal := .next ((s.setY (s.cpu.y + 1)).setZN (s.cpu.y + 1))

/-- DEX (R149). -/
def execDex (s : State) : Host.Outcome State Fault Refusal := .next ((s.setX (s.cpu.x - 1)).setZN (s.cpu.x - 1))

/-- DEY (R150). -/
def execDey (s : State) : Host.Outcome State Fault Refusal := .next ((s.setY (s.cpu.y - 1)).setZN (s.cpu.y - 1))

/-! ## Accumulator shifts -/

/-- `(A, P.C) <- r; SetZN(A)`. -/
def shiftAccumulator (r : ShiftResult) (s : State) : State := ((s.setA r.r).setFlag .c r.c).setZN r.r

/-- ASL A (R151). -/
def execAslA (s : State) : Host.Outcome State Fault Refusal := .next (shiftAccumulator (shiftLeft s.cpu.a) s)

/-- ROL A (R152). -/
def execRolA (s : State) : Host.Outcome State Fault Refusal := .next (shiftAccumulator (rotateLeft s.cpu.a (s.flag .c)) s)

/-- LSR A (R153). -/
def execLsrA (s : State) : Host.Outcome State Fault Refusal := .next (shiftAccumulator (shiftRight s.cpu.a) s)

/-- ROR A (R154). -/
def execRorA (s : State) : Host.Outcome State Fault Refusal := .next (shiftAccumulator (rotateRight s.cpu.a (s.flag .c)) s)

/-- NOP (R155): "nothing besides the PC advance past the opcode". -/
def execNop (s : State) : Host.Outcome State Fault Refusal := .next s

end Sys2Proof.Machine
end

