-- ==== Sys2Proof/Machine/Jump.lean ====
section
/-! DEFINITION. The Jump family (41_jump). -/

namespace Sys2Proof.Machine

/-- JMP absolute (R113). -/
def execJmpAbs (target : Word) (s : State) : Host.Outcome State Fault Refusal := .next (s.setPc target)

/-- The address of the target's high byte (R114): with JMP_INDIRECT_PAGE_WRAP it stays in the pointer's
page. -/
def jmpIndHighAddr (wrap : Bool) (ptr : Word) : Word :=
  if wrap then (ptr &&& 0xFF00) ||| ((ptr + 1) &&& 0x00FF) else ptr + 1

/-- JMP indirect (R114): two byte reads, low first. -/
def execJmpInd (ptr : Word) (s : State) : Host.Outcome State Fault Refusal :=
  let l := memRead ptr s
  let h := memRead (jmpIndHighAddr s.cfg.jmpIndirectPageWrap ptr) l.2
  .next (h.2.setPc (mkWord h.1 l.1))

end Sys2Proof.Machine
end

