-- ==== Sys2Proof/Machine/Special.lean ====
section
/-! DEFINITION. The Special family (42_special): JSR, BRK, RTI, RTS. -/

namespace Sys2Proof.Machine

/-- JSR (R115): PC is pc0 + 3, so the pushed word, "the address of the last byte of the 3-byte
instruction", is PC - 1. -/
def execJsr (target : Word) (s : State) : Host.Outcome State Fault Refusal :=
  .next ((pushWord (s.cpu.pc - 1) s).setPc target)

/-- BRK (R116): PC is pc0 + 1, so the pushed word is PC + 1, past the signature byte, which is not read. -/
def execBrk (s : State) : Host.Outcome State Fault Refusal :=
  .next (takeException (s.cpu.pc + 1) true s.cfg.vectorIrq s)

/-- RTI (R117). -/
def execRti (s : State) : Host.Outcome State Fault Refusal := .next (returnFromException s)

/-- RTS (R118): the pulled word plus one. -/
def execRts (s : State) : Host.Outcome State Fault Refusal :=
  let w := pullWord s
  .next (w.2.setPc (w.1 + 1))

end Sys2Proof.Machine
end

