-- ==== Sys2Proof/Machine/Dispatch.lean ====
section
/-! DEFINITION. One arm per handler (40_dispatch R93, R94). The state given to `exec` is the one after the
instruction's bytes are fetched (Machine/Fetch.lean): PC is past them. -/

namespace Sys2Proof.Machine

def exec (i : Instr) (s : State) : Host.Outcome State Fault Refusal :=
  match i with
  -- Jump family (41_jump)
  | .jmpAbs target => Sys2Proof.Machine.execJmpAbs target s
  | .jmpInd ptr => Sys2Proof.Machine.execJmpInd ptr s
  -- Special family (42_special)
  | .jsr target => Sys2Proof.Machine.execJsr target s
  | .brk => Sys2Proof.Machine.execBrk s
  | .rti => Sys2Proof.Machine.execRti s
  | .rts => Sys2Proof.Machine.execRts s
  -- Branch family (43_branch)
  | .bpl rel => Sys2Proof.Machine.execBpl rel s
  | .bmi rel => Sys2Proof.Machine.execBmi rel s
  | .bvc rel => Sys2Proof.Machine.execBvc rel s
  | .bvs rel => Sys2Proof.Machine.execBvs rel s
  | .bcc rel => Sys2Proof.Machine.execBcc rel s
  | .bcs rel => Sys2Proof.Machine.execBcs rel s
  | .bne rel => Sys2Proof.Machine.execBne rel s
  | .beq rel => Sys2Proof.Machine.execBeq rel s
  -- Implied family (44_implied)
  | .php => Sys2Proof.Machine.execPhp s
  | .plp => Sys2Proof.Machine.execPlp s
  | .pha => Sys2Proof.Machine.execPha s
  | .pla => Sys2Proof.Machine.execPla s
  | .clc => Sys2Proof.Machine.execClc s
  | .sec => Sys2Proof.Machine.execSec s
  | .cli => Sys2Proof.Machine.execCli s
  | .sei => Sys2Proof.Machine.execSei s
  | .clv => Sys2Proof.Machine.execClv s
  | .cld => Sys2Proof.Machine.execCld s
  | .sed => Sys2Proof.Machine.execSed s
  | .tax => Sys2Proof.Machine.execTax s
  | .tay => Sys2Proof.Machine.execTay s
  | .txa => Sys2Proof.Machine.execTxa s
  | .tya => Sys2Proof.Machine.execTya s
  | .txs => Sys2Proof.Machine.execTxs s
  | .tsx => Sys2Proof.Machine.execTsx s
  | .inx => Sys2Proof.Machine.execInx s
  | .iny => Sys2Proof.Machine.execIny s
  | .dex => Sys2Proof.Machine.execDex s
  | .dey => Sys2Proof.Machine.execDey s
  | .aslA => Sys2Proof.Machine.execAslA s
  | .rolA => Sys2Proof.Machine.execRolA s
  | .lsrA => Sys2Proof.Machine.execLsrA s
  | .rorA => Sys2Proof.Machine.execRorA s
  | .nop => Sys2Proof.Machine.execNop s
  -- Common family, cc = 01 (45_common_group1)
  | .ora o => Sys2Proof.Machine.execOra o s
  | .and o => Sys2Proof.Machine.execAnd o s
  | .eor o => Sys2Proof.Machine.execEor o s
  | .adc o => Sys2Proof.Machine.execAdc o s
  | .sta m => Sys2Proof.Machine.execSta m s
  | .lda o => Sys2Proof.Machine.execLda o s
  | .cmp o => Sys2Proof.Machine.execCmp o s
  | .sbc o => Sys2Proof.Machine.execSbc o s
  -- Common family, cc = 10 (46_common_group2)
  | .asl m => Sys2Proof.Machine.execAsl m s
  | .rol m => Sys2Proof.Machine.execRol m s
  | .lsr m => Sys2Proof.Machine.execLsr m s
  | .ror m => Sys2Proof.Machine.execRor m s
  | .stx m => Sys2Proof.Machine.execStx m s
  | .ldx o => Sys2Proof.Machine.execLdx o s
  | .dec m => Sys2Proof.Machine.execDec m s
  | .inc m => Sys2Proof.Machine.execInc m s
  -- Common family, cc = 00 (47_common_group0)
  | .bit m => Sys2Proof.Machine.execBit m s
  | .sty m => Sys2Proof.Machine.execSty m s
  | .ldy o => Sys2Proof.Machine.execLdy o s
  | .cpy o => Sys2Proof.Machine.execCpy o s
  | .cpx o => Sys2Proof.Machine.execCpx o s
  -- the illegal handler (40_dispatch R96)
  | .illegal op => Sys2Proof.Machine.execIllegal op s

end Sys2Proof.Machine
end

