-- ==== Sys2Proof/Machine/Fetch.lean ====
section
/-! DEFINITION. Fetching an instruction's bytes (40_dispatch R93, R98). Each is a `MemRead` at PC that then
advances PC by one, with whatever effect a read of that address has (20_memory R65). Every handler fetches
all its operand bytes before any other access, so they are fetched here, in order, and handed to the
decoder. The legality of the opcode is known from the opcode alone, so an illegal opcode's operands are
never fetched (R93, R97). -/

namespace Sys2Proof.Machine

/-- `FetchByte()` (R98). -/
def fetchByte (s : State) : Byte × State :=
  let b := memRead s.cpu.pc s
  (b.1, b.2.setPc (b.2.cpu.pc + 1))

/-- Fetches n bytes in order; a byte past the n-th is 0. -/
def fetchBytes : Nat → State → List Byte × State
  | 0, s => ([], s)
  | n + 1, s =>
    let b := fetchByte s
    let r := fetchBytes n b.2
    (b.1 :: r.1, r.2)

/-- The instruction at PC, and the state with its bytes fetched (R93, R98). -/
def fetch (s : State) : Instr × State :=
  let op := fetchByte s
  let b := fetchBytes (operandBytes op.1) op.2
  (decodeOp op.1 (b.1.getD 0 0) (b.1.getD 1 0), b.2)

end Sys2Proof.Machine
end

