-- ==== Sys2Proof/Machine/Latch.lean ====
section
/-! DEFINITION. The register-latch services and the VRAM/palette transactions of the PPU (48_ppu_latch_engine),
the host port `oam_dma` (R198), the published status (R200) and the NMI output (60_exceptions R228). -/

namespace Sys2Proof.Machine

/-- Goes on from a step that completed; a failure ends it. -/
def andThen (o : Host.Outcome State Fault Refusal) (f : State → Host.Outcome State Fault Refusal) :
    Host.Outcome State Fault Refusal :=
  match o with
  | .next s => f s
  | .fault e => .fault e
  | .refused e => .refused e

/-! ## Register fields (10_state R37, R38) -/

/-- CONTROL bits 1:0, `nt_select`. -/
def Ppu.ntSelect (p : Ppu) : BitVec 2 := p.control.extractLsb' 0 2
/-- CONTROL bit 2, `incr32`. -/
def Ppu.incr32 (p : Ppu) : Bool := p.control.getLsbD 2
/-- CONTROL bit 3, `spr_table`. -/
def Ppu.sprTable (p : Ppu) : Bool := p.control.getLsbD 3
/-- CONTROL bit 4, `bg_table`. -/
def Ppu.bgTable (p : Ppu) : Bool := p.control.getLsbD 4
/-- CONTROL bit 5, `spr_16`. -/
def Ppu.spr16 (p : Ppu) : Bool := p.control.getLsbD 5
/-- CONTROL bit 7, `nmi_enable`. -/
def Ppu.nmiEnable (p : Ppu) : Bool := p.control.getLsbD 7
/-- MASK bit 0, `greyscale`. -/
def Ppu.greyscale (p : Ppu) : Bool := p.mask.getLsbD 0
/-- MASK bit 1, `bg_left`. -/
def Ppu.bgLeft (p : Ppu) : Bool := p.mask.getLsbD 1
/-- MASK bit 2, `spr_left`. -/
def Ppu.sprLeft (p : Ppu) : Bool := p.mask.getLsbD 2
/-- MASK bit 3, `show_bg`. -/
def Ppu.showBg (p : Ppu) : Bool := p.mask.getLsbD 3
/-- MASK bit 4, `show_spr`. -/
def Ppu.showSpr (p : Ppu) : Bool := p.mask.getLsbD 4

/-! ## The PPU's spaces (20_memory R58, R59, 48 R182) -/

/-- `ChrRead(a)`, the call `CHR.chr_load(a)` (R60): the reference chr space is memory; a load of another one
gives what that one gives, and may change it. In the block it "has no side effect" (R65). -/
def chrRead (a : Nat) (s : State) : Byte × State :=
  match s.cfg.chr with
  | .reference => (s.bus.chr.read a, s)
  | .other k =>
    let r := Config.chrLoad k s.bus.ext a
    (r.1, s.setExt r.2)

/-- `ChrWrite(a, v)`, the call `CHR.chr_store(a, v)` (R60). -/
def chrWrite (a : Nat) (v : Byte) (s : State) : State :=
  match s.cfg.chr with
  | .reference => { s with bus := { s.bus with chr := s.bus.chr.write a v } }
  | .other k => s.setExt (Config.chrStore k s.bus.ext a v)

/-- `pal_index(i)` (R58): the background-colour mirroring. -/
def palIndex (i : BitVec 5) : BitVec 5 :=
  if i = 0x10 ∨ i = 0x14 ∨ i = 0x18 ∨ i = 0x1C then i &&& 0x0F else i

/-- `PalRead(i)` (R58). -/
def palRead (i : BitVec 5) (p : Ppu) : Byte := p.palette.read (palIndex i).toNat

/-- `PalWrite(i, v)` (R58). -/
def palWrite (i : BitVec 5) (v : Byte) (p : Ppu) : Ppu :=
  { p with palette := p.palette.write (palIndex i).toNat v }

/-- `a & 0x1F`, the palette offset of a PPU address (R59). -/
def palOffset (a : Word) : BitVec 5 := a.setWidth 5

/-- `PpuLoad(a)` (R182): `.error a` is `raise PpuFatal(a)`. -/
def ppuLoad (a : Word) (s : State) : Except Word (Byte × State) :=
  if s.cfg.ppuSpaceSize ≤ a.toNat then .error a
  else if a.toNat < s.cfg.paletteBase then .ok (chrRead a.toNat s)
  else .ok (palRead (palOffset a) s.ppu, s)

/-- `PpuStore(a, v)` (R182): `.error a` is `raise PpuFatal(a)`. A palette store keeps all 8 bits of v. -/
def ppuStore (a : Word) (v : Byte) (s : State) : Except Word State :=
  if s.cfg.ppuSpaceSize ≤ a.toNat then .error a
  else if a.toNat < s.cfg.paletteBase then .ok (chrWrite a.toNat v s)
  else .ok { s with ppu := palWrite (palOffset a) v s.ppu }

/-! ## The address-toggle latches (R183) -/

/-- The latch's 16-bit value, `(hi << 8) | lo` (10_state R41). -/
def ToggleLatch.value (l : ToggleLatch) : Word := mkWord l.hi l.lo

/-- `LatchWrite(l, v)`. -/
def ToggleLatch.write (l : ToggleLatch) (v : Byte) : ToggleLatch :=
  if l.expectHi then { l with hi := v, expectHi := false } else { l with lo := v, expectHi := true }

/-- `LatchReset(l)`: "A reset does not change hi or lo". -/
def ToggleLatch.expectHigh (l : ToggleLatch) : ToggleLatch := { l with expectHi := true }

/-- `Increment()` (R196): by 32 or 1, modulo 2^16; the toggle stays as it is. -/
def Ppu.increment (p : Ppu) : Ppu :=
  let w := p.addr.value + (if p.incr32 then 32 else 1)
  { p with addr := { p.addr with hi := hiByte w, lo := loByte w } }

/-! ## Services (R185 to R197) -/

/-- OAM_DATA write (R191): "stores byte into primary OAM at cursor, auto-increments cursor modulo 256". -/
def Ppu.oamDataWrite (p : Ppu) (v : Byte) : Ppu :=
  { p with oam := p.oam.write p.oamAddr.toNat v, oamAddr := p.oamAddr + 1 }

/-- STATUS read (R193): both toggles to "expect high byte", all three flags cleared. -/
def Ppu.statusRead (p : Ppu) : Ppu :=
  { p with scroll := p.scroll.expectHigh, addr := p.addr.expectHigh, vblank := false, spr0Hit := false,
           sprOverflow := false }

/-- `ServiceWrite(r, v)` (R187 to R192, R194). -/
def serviceWrite (r : PpuReg) (v : Byte) (s : State) : Except Word State :=
  match r with
  | .control => .ok { s with ppu := { s.ppu with control := v } }
  | .mask => .ok { s with ppu := { s.ppu with mask := v } }
  | .status => .ok s
  | .oamAddr => .ok { s with ppu := { s.ppu with oamAddr := v } }
  | .oamData => .ok { s with ppu := s.ppu.oamDataWrite v }
  | .scroll => .ok { s with ppu := { s.ppu with scroll := s.ppu.scroll.write v } }
  | .address => .ok { s with ppu := { s.ppu with addr := s.ppu.addr.write v } }
  | .data =>
    match ppuStore s.ppu.addr.value v s with
    | .error a => .error a
    | .ok t => .ok { t with ppu := t.ppu.increment }

/-- `ServiceRead(r)` (R193, R195, R197). `SetLatch(v)` sets `bus.staged`. -/
def serviceRead (r : PpuReg) (s : State) : Except Word State :=
  match r with
  | .status => .ok { s with ppu := s.ppu.statusRead }
  | .data =>
    match ppuLoad s.ppu.addr.value s with
    | .error a => .error a
    | .ok l => .ok { l.2 with bus := { l.2.bus with staged := l.1 }, ppu := l.2.ppu.increment }
  | .control | .mask | .oamAddr | .oamData | .scroll | .address => .ok s

/-- The first phase of a PPU step: `GetLatch()` (R184), which empties the slot, and the service. -/
def takeWrite (s : State) : Except Word State :=
  match s.bus.pendingWrite with
  | none => .ok s
  | some (v, r) => serviceWrite r v { s with bus := { s.bus with pendingWrite := none } }

/-- The second phase: `GetLoadStatus()` (R184), which empties the slot, and the service. -/
def takeRead (s : State) : Except Word State :=
  match s.bus.pendingRead with
  | none => .ok s
  | some r => serviceRead r { s with bus := { s.bus with pendingRead := none } }

/-- Both phases: "the write is serviced first and then the read" (R186). -/
def services (s : State) : Except Word State :=
  match takeWrite s with
  | .error a => .error a
  | .ok t => takeRead t

/-! ## Status and NMI -/

/-- `StatusByte()` (R200): vblank in bit 7, sprite-0 hit in 6, overflow in 5, the rest 0. -/
def Ppu.statusByte (p : Ppu) : Byte :=
  BitVec.ofBool p.vblank ++ BitVec.ofBool p.spr0Hit ++ BitVec.ofBool p.sprOverflow ++ (0 : BitVec 5)

/-- `PublishStatus(StatusByte())` (R200). -/
def publishStatus (s : State) : State := { s with bus := { s.bus with statusView := s.ppu.statusByte } }

/-- `NmiOutput()`, by the formula of 60_exceptions R228. A sentence of the same rule ("a program that reads STATUS
during vblank and then rewrites CONTROL with bit 7 = 1 gets a second NMI in the same frame") does not agree with it,
as the STATUS read clears vblank (48 R193) and the level cannot rise again. That the formula is followed, so that no
second NMI comes, is the model's reading (log 24, DEDUCED). -/
def nmiOutput (s : State) : Bool := s.ppu.vblank && s.ppu.nmiEnable

/-! ## Host ports and resets -/

/-- The writes of `oam_dma`, from byte i on: `oam[(oam_addr + i) mod 256] <- bytes[i]`. -/
def oamDmaFrom (oamAddr : Byte) : List Byte → Nat → Memory → Memory
  | [], _, oam => oam
  | v :: vs, i, oam => oamDmaFrom oamAddr vs (i + 1) (oam.write ((oamAddr.toNat + i) % 256) v)

/-- `oam_dma(bytes)` (R198): 256 bytes from the cursor on, the cursor unchanged. -/
def oamDma (bytes : Vector Byte 256) (s : State) : State :=
  { s with ppu := { s.ppu with oam := oamDmaFrom s.ppu.oamAddr bytes.toList 0 s.ppu.oam } }

/-- `ppu_reset_frames()` (60_exceptions R238). -/
def ppuResetFrames (s : State) : State := { s with ppu := { s.ppu with frames := 0 } }

/-- `ppu_reset()` (70_reset R246): every item but OAM and the palette, and `PublishStatus(0x00)`. -/
def ppuReset (s : State) : State :=
  { s with
    ppu :=
      { control := 0x00, mask := 0x00, vblank := false, spr0Hit := false, sprOverflow := false,
        scroll := ToggleLatch.reset, addr := ToggleLatch.reset, oamAddr := 0x00, oam := s.ppu.oam,
        secondary := Vector.replicate 8 SpriteRecord.empty, spr0OnLine := false,
        palette := s.ppu.palette, tileReg := 0x0000, cycle := 0, scanline := 0, dot := 0,
        oddFrame := false, frames := 0 }
    bus := { s.bus with statusView := 0x00 } }

/-- The bus's reset (70_reset R247): both slots empty, the status view 0, the staged byte a draw. -/
def busReset (s : State) : State :=
  { s with bus := { s.bus with pendingWrite := none, pendingRead := none, statusView := 0x00,
                               staged := Config.freeByte s.draws } }.nextDraw

/-- What the run loop does to reset the PPU: the bus's reset "is done by the run loop with `ppu_reset`", and "A
pending latch from before the reset must not survive it" (70_reset R247). -/
def resetPpu (s : State) : State := busReset (ppuReset s)

end Sys2Proof.Machine
end

