-- ==== Sys2Proof/Machine/Render.lean ====
section
/-! DEFINITION. The timing state machine, sprite staging and the tile renderer (49_ppu_timing_render), and
`ppu_step` as a whole (48 R179). Positions, coordinates and chr addresses are natural numbers, as the
spec's `mod` and `/` on them are. -/

namespace Sys2Proof.Machine

/-- 0 or 1, as the spec uses a register bit as a number. -/
def bitNat (b : Bool) : Nat := if b then 1 else 0

/-! ## Sprite staging (R211 to R214) -/

/-- The sprite height H: 16 if `spr_16`, else 8. -/
def Ppu.spriteHeight (p : Ppu) : Nat := if p.spr16 then 16 else 8

/-- `reset_secondary_oam()` (R212). -/
def resetSecondaryOam (p : Ppu) : Ppu :=
  { p with secondary := Vector.replicate 8 SpriteRecord.empty, spr0OnLine := false }

/-- Sprite i of primary OAM: bytes 4i..4i+3 (10_state R43). -/
def Ppu.sprite (p : Ppu) (i : Nat) : SpriteRecord :=
  ⟨p.oam.read (4 * i), p.oam.read (4 * i + 1), p.oam.read (4 * i + 2), p.oam.read (4 * i + 3)⟩

/-- `0 <= s - 1 - Y < H` (R213). -/
def inRange (scanline height : Nat) (y : Byte) : Bool :=
  let row : Int := (scanline : Int) - 1 - (y.toNat : Int)
  decide (0 ≤ row ∧ row < (height : Int))

/-- The loop of `EvaluateSprites(s)` (R211) over the sprites still to look at, with n records filled: the
first 8 in range are copied in OAM order, a 9th sets overflow and stops. -/
def evaluateFrom (scanline : Nat) : List Nat → Nat → Ppu → Ppu
  | [], _, p => p
  | i :: is, n, p =>
    if inRange scanline p.spriteHeight (p.sprite i).y then
      if h : n < 8 then
        evaluateFrom scanline is (n + 1)
          { p with secondary := p.secondary.set n (p.sprite i) h, spr0OnLine := p.spr0OnLine || i == 0 }
      else { p with sprOverflow := true }
    else evaluateFrom scanline is n p

/-- `EvaluateSprites(s)` (R211). -/
def evaluateSprites (scanline : Nat) (p : Ppu) : Ppu :=
  evaluateFrom scanline (List.range 64) 0 (resetSecondaryOam p)

/-! ## Pixels (R216 to R220) -/

/-- The two bits of a pattern row at bit `7 - col`: plane 0 the low bit, plane 1 the high bit. -/
def patternPixel (p0 p1 : Byte) (col : Nat) : Nat :=
  bitNat (p0.getLsbD (7 - col)) + 2 * bitNat (p1.getLsbD (7 - col))

/-- `BgPixel(x, y)` (R216): a palette offset 0..15, 0 transparent, and the state after its four chr reads, made
"in this order", with the tile fetch register written (R217). A background that is off or clipped makes no
chr read. -/
def bgPixel (x y : Nat) (s : State) : Nat × State :=
  let p := s.ppu
  if !p.showBg || (decide (x < 8) && !p.bgLeft) then (0, s)
  else
    let wx := (x + p.scroll.hi.toNat + 256 * bitNat (p.ntSelect.getLsbD 0)) % 512
    let wy := (y + p.scroll.lo.toNat + 240 * bitNat (p.ntSelect.getLsbD 1)) % 480
    let nt := 0x2000 + 0x400 * (2 * (wy / 240) + wx / 256)
    let tx := wx % 256 / 8
    let ty := wy % 240 / 8
    let fx := wx % 8
    let fy := wy % 240 % 8
    let tile := chrRead (nt + 32 * ty + tx) s
    let at' := chrRead (nt + 0x3C0 + 8 * (ty / 4) + tx / 4) tile.2
    let pal := ((at'.1 >>> (4 * (ty % 4 / 2) + 2 * (tx % 4 / 2))) &&& 3).toNat
    let pa := 0x1000 * bitNat p.bgTable + 16 * tile.1.toNat + fy
    let p0 := chrRead pa at'.2
    let p1 := chrRead (pa + 8) p0.2
    let reg := mkWord p0.1 p1.1
    let px := bitNat (reg.getLsbD (15 - fx)) + 2 * bitNat (reg.getLsbD (7 - fx))
    (if px = 0 then 0 else 4 * pal + px, { p1.2 with ppu := { p1.2.ppu with tileReg := reg } })

/-- What `SprPixel(x, y)` gives when it gives a pixel (R218). -/
structure SpritePixel where
  offset : Nat
  behind : Bool
  is0    : Bool
deriving DecidableEq, Repr

/-- The pattern address of row `row` of tile t (R218), `row` after the vertical flip. It is an unbounded integer,
as `row` is (`int(v)`, 00_scope R11). How `row / 8` and `row mod 8` of a negative row round, which only a stale
record in 8x16 mode has, the spec does not say; that they round down (-1 gives -1 and 7) is the model's choice
(log 23, DESIGN CHOICE). -/
def spritePatternAddr (p : Ppu) (t : Byte) (row : Int) : Int :=
  if p.spr16 then 0x1000 * (bitNat (t.getLsbD 0) : Int) + 16 * (((t &&& 0xFE).toNat : Int) + row / 8) + row % 8
  else 0x1000 * (bitNat p.sprTable : Int) + 16 * (t.toNat : Int) + row

/-- `ChrRead(pa)` of R218. Below 0 there is no chr space: a record staged for another scanline or another
sprite height can have such an address, and the byte is then a free value (log 13). -/
def patternRead (pa : Int) (s : State) : Byte × State :=
  if 0 ≤ pa then chrRead pa.toNat s else (Config.freeByte s.draws, s.nextDraw)

/-- What record n gives at (x, y), `none` where the loop of R218 continues with the next record, and the state
after its two chr reads; `s` is the state at its turn. -/
def recordPixel (n : Nat) (r : SpriteRecord) (x y : Nat) (s : State) : Option SpritePixel × State :=
  let col : Int := (x : Int) - (r.x.toNat : Int)
  if r.y = 0xFF then (none, s)
  else if 0 ≤ col ∧ col < 8 then
    let row : Int := (y : Int) - 1 - (r.y.toNat : Int)
    let c : Nat := if r.attr.getLsbD 6 then 7 - col.toNat else col.toNat
    let row' : Int := if r.attr.getLsbD 7 then (s.ppu.spriteHeight : Int) - 1 - row else row
    let pa := spritePatternAddr s.ppu r.tile row'
    let p0 := patternRead pa s
    let p1 := patternRead (pa + 8) p0.2
    let px := patternPixel p0.1 p1.1 c
    (if px = 0 then none
     else some ⟨16 + 4 * (r.attr &&& 3).toNat + px, r.attr.getLsbD 5, n == 0 && s.ppu.spr0OnLine⟩, p1.2)
  else (none, s)

/-- The loop of `SprPixel(x, y)` over the records from n on: the first opaque one wins, and the records after it
are not looked at. -/
def firstOpaque (x y : Nat) : List SpriteRecord → Nat → State → Option SpritePixel × State
  | [], _, s => (none, s)
  | r :: rs, n, s =>
    let p := recordPixel n r x y s
    match p.1 with
    | some px => (some px, p.2)
    | none => firstOpaque x y rs (n + 1) p.2

/-- `SprPixel(x, y)` (R218), and the state after its chr reads. -/
def sprPixel (x y : Nat) (s : State) : Option SpritePixel × State :=
  if !s.ppu.showSpr || (decide (x < 8) && !s.ppu.sprLeft) then (none, s)
  else firstOpaque x y s.ppu.secondary.toList 0 s

/-- The offset the multiplexer picks (R219). -/
def muxOffset (b : Nat) (sp : Option SpritePixel) : Nat :=
  match sp with
  | none => b
  | some px => if b = 0 || !px.behind then px.offset else b

/-- The sprite-0 hit test (R219, R220). -/
def hitsSprite0 (x b : Nat) (sp : Option SpritePixel) : Bool :=
  match sp with
  | none => false
  | some px => px.is0 && b != 0 && x != 255

/-- `PalRead(off) & 0x3F`, and `& 0x30` under greyscale (R219). -/
def outputColour (p : Ppu) (off : Nat) : Byte :=
  let c := palRead (BitVec.ofNat 5 off) p &&& 0x3F
  if p.greyscale then c &&& 0x30 else c

/-- `EmitPixel(x, y, surface)` (R219): the background's reads, then the sprites', then the hit flag and the
surface call. -/
def emitPixel (x y : Nat) (s : State) : State :=
  let b := bgPixel x y s
  let sp := sprPixel x y b.2
  let t := sp.2
  { t with
    ppu := { t.ppu with spr0Hit := t.ppu.spr0Hit || hitsSprite0 x b.1 sp.1 }
    surface := t.surface ++ [.setPixel x y (outputColour t.ppu (muxOffset b.1 sp.1))] }

/-! ## Timing (R204 to R209) -/

/-- `RenderingEnabled()` (R209). -/
def Ppu.renderingEnabled (p : Ppu) : Bool := p.showBg || p.showSpr

/-- `Advance()` (R205). -/
def advance (cfg : Config) (p : Ppu) : Ppu :=
  let q : Ppu :=
    if p.cycle = cfg.frameCycles - 1 then
      { p with cycle := 0, frames := (p.frames + 1) % 2 ^ cfg.frameCounterWidth, oddFrame := !p.oddFrame }
    else { p with cycle := p.cycle + 1 }
  { q with scanline := q.cycle / cfg.dotsPerScanline, dot := q.cycle % cfg.dotsPerScanline }

/-- The rendering of a position (R204): evaluation at dot 0, a pixel at dots 1..VISIBLE_DOTS, of a visible
scanline, while rendering is enabled. -/
def renderAt (scanline dot : Nat) (s : State) : State :=
  if s.ppu.renderingEnabled && decide (scanline < s.cfg.visibleScanlines) then
    if dot = 0 then { s with ppu := evaluateSprites scanline s.ppu }
    else if dot ≤ s.cfg.visibleDots then emitPixel (dot - 1) scanline s
    else s
  else s

/-- The three position events (R206 to R208), in the order of R204. -/
def eventsAt (scanline dot : Nat) (s : State) : State :=
  let s1 : State := if (scanline, dot) = s.cfg.vblankSetPos then { s with ppu := { s.ppu with vblank := true } } else s
  let s2 : State :=
    if (scanline, dot) = s1.cfg.vblankClearPos then
      { s1 with ppu := { s1.ppu with vblank := false, spr0Hit := false, sprOverflow := false } }
    else s1
  if (scanline, dot) = s2.cfg.presentPos then { s2 with surface := s2.surface ++ [.present] } else s2

/-- `Tick(surface)` (R204): it works at the position the step starts at and then advances it. -/
def tick (s : State) : State :=
  let t := eventsAt s.ppu.scanline s.ppu.dot (renderAt s.ppu.scanline s.ppu.dot { s with surface := [] })
  { t with ppu := advance t.cfg t.ppu }

/-- `ppu_step(bus, surface)` (48 R179): the services, the tick, the published status. A PpuFatal of a service is
the step's outcome, and it leaves the state as it was before the step (48 R181). -/
def ppuStep (s : State) : Host.Outcome State Fault Refusal :=
  match services s with
  | .error a => .fault (.ppuFatal a s)
  | .ok t => .next (publishStatus (tick t))

end Sys2Proof.Machine
end

