-- ==== Sys2Proof/Machine/Timing.lean ====
section
/-! DEFINITION. The informative cycle counts of 70_reset R259. No rule of the block depends on them: only
the conventional schedule of R258 uses them (Machine/RunLoop.lean). The state is the one an instruction's
meaning starts from, its bytes fetched. -/

namespace Sys2Proof.Machine

/-- "the effective address and the unindexed base address differ in bits 15:8" (R259). -/
def crosses (base ea : Word) : Nat := if hiByte base = hiByte ea then 0 else 1

/-- The page-crossing cycle of an indexed read. The pointer of izy is what the instruction's own reads of it give. -/
def crossing (m : MemOperand) (s : State) : Nat :=
  match m with
  | .abx w => crosses w (w + s.cpu.x.setWidth 16)
  | .aby w => crosses w (w + s.cpu.y.setWidth 16)
  | .izy a =>
    let w := (readPointer a s).1
    crosses w (w + s.cpu.y.setWidth 16)
  | .zp _ | .zpx _ | .zpy _ | .abs _ | .izx _ => 0

/-- The row "read". -/
def readCycles (o : Operand) (s : State) : Nat :=
  match o with
  | .imm _ => 2
  | .mem m =>
    match m with
    | .zp _ => 3
    | .zpx _ | .zpy _ => 4
    | .abs _ => 4
    | .abx _ | .aby _ => 4 + crossing m s
    | .izx _ => 6
    | .izy _ => 5 + crossing m s

/-- The row "store". -/
def storeCycles : MemOperand → Nat
  | .zp _ => 3
  | .zpx _ | .zpy _ => 4
  | .abs _ => 4
  | .abx _ | .aby _ => 5
  | .izx _ | .izy _ => 6

/-- The row "read-modify-write". The last form has no cell in R259's table and is no instruction. -/
def modifyCycles : MemOperand → Nat
  | .zp _ => 5
  | .zpx _ | .zpy _ => 6
  | .abs _ => 6
  | .abx _ | .aby _ => 7
  | .izx _ | .izy _ => 8

/-- The row "branch": "2, +1 if taken, +1 more if the target is in another page than pc0 + 2". -/
def branchCycles (cond : Bool) (rel : Byte) (s : State) : Nat :=
  if cond then 3 + crosses s.cpu.pc (s.cpu.pc + branchOffset s.cfg.branchOffsetMode rel) else 2

/-- The cycles of an instruction (R259); an illegal opcode under Nop "may" be counted as 2. -/
def cycles (i : Instr) (s : State) : Nat :=
  match i with
  | .jmpAbs _ => 3
  | .jmpInd _ => 5
  | .jsr _ | .rts | .rti => 6
  | .brk => 7
  | .bpl b => branchCycles (!s.flag .n) b s
  | .bmi b => branchCycles (s.flag .n) b s
  | .bvc b => branchCycles (!s.flag .v) b s
  | .bvs b => branchCycles (s.flag .v) b s
  | .bcc b => branchCycles (!s.flag .c) b s
  | .bcs b => branchCycles (s.flag .c) b s
  | .bne b => branchCycles (!s.flag .z) b s
  | .beq b => branchCycles (s.flag .z) b s
  | .pha | .php => 3
  | .pla | .plp => 4
  | .clc | .sec | .cli | .sei | .clv | .cld | .sed => 2
  | .tax | .tay | .txa | .tya | .txs | .tsx | .inx | .iny | .dex | .dey => 2
  | .aslA | .rolA | .lsrA | .rorA | .nop | .illegal _ => 2
  | .ora o | .and o | .eor o | .adc o | .lda o | .cmp o | .sbc o => readCycles o s
  | .ldx o | .ldy o | .cpy o | .cpx o => readCycles o s
  | .bit m => readCycles (.mem m) s
  | .sta m | .stx m | .sty m => storeCycles m
  | .asl m | .rol m | .lsr m | .ror m | .dec m | .inc m => modifyCycles m

end Sys2Proof.Machine
end

