-- ==== Sys2Proof/Machine/RunLoop.lean ====
section
/-! DEFINITION. The calls the run loop makes (60_exceptions R230, R241), one at a time, and the calls the
conventional schedule makes after each (70_reset R258). -/

namespace Sys2Proof.Machine

/-- `cpu_step(bus)` (40_dispatch R93): one instruction. -/
def cpuStep (s : State) : Host.Outcome State Fault Refusal :=
  let f := fetch s
  exec f.1 f.2

/-- After a PPU step the run loop reads `NmiOutput()`; a 0 to 1 transition becomes its own `nmi_pending`
(60 R228, 70 R258). `before` is the level at its previous reading. -/
def noteNmi (before : Bool) (s : State) : State :=
  { s with host := { s.host with nmiPending := s.host.nmiPending || (!before && nmiOutput s) } }

/-- What the boundary decision of R230 delivers. -/
inductive Entry where
  | reset (kind : ResetKind)
  | nmi
  | irq
deriving DecidableEq, Repr

/-- R230's priority: "Reset outranks NMI, which outranks IRQ". -/
def boundaryEntry (s : State) : Option Entry :=
  match s.host.resetRequest with
  | some k => some (.reset k)
  | none =>
    if s.host.nmiPending then some .nmi
    else if s.host.irqLine && !s.flag .i then some .irq
    else none

/-- A reset the boundary delivers (R230, 70_reset R246 to R248): the request is served; a console reset
resets the PPU, the bus's latches and the run loop's `nmi_pending` as well. That a CPU reset leaves
`nmi_pending` is the model's choice (log 16). -/
def deliverReset (k : ResetKind) (s : State) : State :=
  let t := cpuReset { s with host := { s.host with resetRequest := none } }
  match k with
  | .cpu => t
  | .console =>
    let u := resetPpu t
    { u with host := { u.host with nmiPending := false } }

/-- `Boundary()` (R230): at most one entry call. -/
def boundary (s : State) : State :=
  match boundaryEntry s with
  | none => s
  | some (.reset k) => deliverReset k s
  | some .nmi => cpuNmi { s with host := { s.host with nmiPending := false } }
  | some .irq => cpuIrq s

/-- One call. A call that completes leaves its outcome in `host.outcome`: Ok, unless the call itself
records Masked or IllegalAsNop. The call `ppuReset` is the run loop's, with the bus's reset, as R247 has it under
every schedule; the call `busReset` is that reset alone. Two points of it are the model's choice, as the spec is silent on them (log
16): a reset request made while another is waiting replaces it (R230), so a CPU request after a console
request drops the reset of the PPU and the bus; and a `ppu_reset` that is not part of a console reset, such as
the one R235 allows after PpuFatal, keeps `nmi_pending` (70_reset R248). -/
def runCall (c : Call) (s0 : State) : Host.Outcome State Fault Refusal :=
  let s := s0.setOutcome .ok
  match c with
  | .cpuStep => cpuStep s
  | .cpuNmi => .next (cpuNmi s)
  | .cpuIrq => .next (cpuIrq s)
  | .cpuReset => .next (cpuReset s)
  | .ppuStep => andThen (ppuStep s) fun t => .next (noteNmi (nmiOutput s) t)
  | .ppuReset => .next (resetPpu s)
  | .oamDma bytes => .next (oamDma bytes s)
  | .ppuResetFrames => .next (ppuResetFrames s)
  | .boundary => .next (boundary s)
  | .busReset => .next (busReset s)
  | .setIrqLine l => .next { s with host := { s.host with irqLine := l } }
  | .requestReset k => .next { s with host := { s.host with resetRequest := some k } }
  | .hostWrite a v => .next (memWrite a v s)
  | .hostChrWrite a v => .next (if a.toNat < s.cfg.paletteBase then chrWrite a.toNat v s else s)
  | .hostSetPc w => .next (s.setPc w)
  | .hostSetExt e => .next (s.setExt e)

/-- n PPU steps. -/
def ppuSteps (n : Nat) : List Call := List.replicate n .ppuStep

/-- The calls the conventional schedule makes after a call (70_reset R258): "3 * c PPU steps after each
cpu_step of c cycles", then the boundary decision; "21 after each interrupt or reset entry, and 3 * 513
after each oam_dma". `s` is the state before the call and `t` the state after it. That no boundary decision
follows the PPU steps of an `oam_dma` is the model's choice, as R258 ("It then makes the boundary decision")
does not say whether one does: an NMI edge in them waits until the next instruction has run (log 8). -/
def followUp (c : Call) (s t : State) : List Call :=
  match c with
  | .cpuStep =>
    let f := fetch s
    ppuSteps (3 * cycles f.1 f.2) ++ [.boundary]
  | .cpuNmi | .cpuReset => ppuSteps 21
  | .cpuIrq => if t.host.outcome = .masked then [] else ppuSteps 21
  | .boundary => if boundaryEntry s = none then [] else ppuSteps 21
  | .oamDma _ => ppuSteps (3 * 513)
  | .ppuStep | .ppuReset | .ppuResetFrames | .busReset => []
  | .setIrqLine _ | .requestReset _ | .hostWrite _ _ | .hostChrWrite _ _ | .hostSetPc _ | .hostSetExt _ => []

/-- The calls to make next, before the ones already listed. -/
def State.enqueue (s : State) (l : List Call) : State :=
  { s with host := { s.host with calls := l ++ s.host.calls } }

/-- A call and, under the conventional schedule, the calls that follow it. -/
def perform (c : Call) (s : State) : Host.Outcome State Fault Refusal :=
  andThen (runCall c s) fun t =>
    match s.host.schedule with
    | .open => .next t
    | .conventional => .next (t.enqueue (followUp c s t))

/-- The call the run loop makes next: the first listed, and `cpu_step` where none is (log 8). -/
def State.nextCall (s : State) : Call := s.host.calls.headD .cpuStep

/-- The state with that call taken off the list. -/
def State.dropCall (s : State) : State := { s with host := { s.host with calls := s.host.calls.tail } }

/-! ## Placing an instruction (Machine/Step.lean, `withFetchWord`) -/

/-- The state with the reference bus, which alone is known to give back what is stored (20_memory R56). -/
def placeBus (s : State) : State := { s with cfg := { s.cfg with bus := .reference } }

/-- Whether the three bytes from an address on are plain memory. -/
def plainFrom (a : Word) : Bool :=
  (ppuRegAt a).isNone && (ppuRegAt (a + 1)).isNone && (ppuRegAt (a + 2)).isNone

/-- The state with PC where a fetch finds plain memory: PC itself, or 0x8000 where the instruction's bytes
would be PPU registers, which hold no program. -/
def placePc (s : State) : State := if plainFrom s.cpu.pc then s else s.setPc 0x8000

/-- The state with three bytes stored from PC on, lowest address first. -/
def placeBytes (b0 b1 b2 : Byte) (s : State) : State :=
  memWrite (s.cpu.pc + 2) b2 (memWrite (s.cpu.pc + 1) b1 (memWrite s.cpu.pc b0 s))

/-- The state whose next call is `cpu_step`. -/
def placeCall (s : State) : State := if s.nextCall = .cpuStep then s else s.enqueue [.cpuStep]

end Sys2Proof.Machine
end

