-- ==== Sys2Proof/Machine/Step.lean ====
section
/-! DEFINITION. One step: one call of the run loop on the block (60_exceptions R241). -/

namespace Sys2Proof.Machine

/-- The step. A configuration outside the bounds of 93 U9 is refused. -/
def step (s : State) : Host.Outcome State Fault Refusal :=
  if s.cfg.wf then perform s.nextCall s.dropCall else .refused .illFormedConfig

/-- The state with an instruction's bytes where the next step fetches them: bits 7..0 of `w` the first
byte, 15..8 the second, 23..16 the third, and every bit from `nbits` on 0. See log 21. -/
def State.withFetchWord (s : State) (nbits w : Nat) : State :=
  let v := w % 2 ^ nbits
  placeCall (placeBytes (BitVec.ofNat 8 v) (BitVec.ofNat 8 (v / 256)) (BitVec.ofNat 8 (v / 65536)) (placePc (placeBus s)))

end Sys2Proof.Machine
end

