-- ==== Sys2Proof/Safety.lean ====
section
/-! DEFINITION. What counts as a good state and a safe run: the invariant of the machine, the runs that
never fail, and the schedule's well-formedness condition LATCH_SAFE_SCHEDULE (70_reset R251). -/

namespace Sys2Proof.Machine

/-- CPU memory is in canonical form and lists no PPU register address: those hold no byte of their own
(20_memory R54 to R56). -/
abbrev Bus.memOk (b : Bus) : Prop :=
  b.mem.wf ∧ b.mem.below 65536 ∧ ∀ c ∈ b.mem, ¬(0x2000 ≤ c.1 ∧ c.1 ≤ 0x3FFF)

/-- Chr space is in canonical form and ends below PALETTE_BASE (20_memory R59, R60). -/
abbrev Bus.chrOk (cfg : Config) (b : Bus) : Prop := b.chr.wf ∧ b.chr.below cfg.paletteBase

/-- OAM is 256 bytes in canonical form (10_state R43). -/
abbrev Ppu.oamOk (p : Ppu) : Prop := p.oam.wf ∧ p.oam.below 256

/-- The palette is 32 bytes in canonical form, and "physical bytes 0x10, 0x14, 0x18 and 0x1C are never
read or written" (10_state R45). -/
abbrev Ppu.paletteOk (p : Ppu) : Prop :=
  p.palette.wf ∧ p.palette.below 32 ∧ ∀ c ∈ p.palette, ¬(16 ≤ c.1 ∧ c.1 % 4 = 0)

/-- The counters: cycle within the frame, scanline and dot functions of it, frames within its width
(10_state R47, R48, R50). -/
abbrev Ppu.timingOk (cfg : Config) (p : Ppu) : Prop :=
  p.cycle < cfg.frameCycles ∧ p.cycle = p.scanline * cfg.dotsPerScanline + p.dot ∧
    p.dot < cfg.dotsPerScanline ∧ p.frames < 2 ^ cfg.frameCounterWidth

/-- Stored bits 5 and 4 of P are 1 and 0 (10_state R30, R31). -/
abbrev Cpu.statusOk (c : Cpu) : Prop := getFlag c.p .u = true ∧ getFlag c.p .b = false

/-- The published status has bits 4:0 zero (48 R200). -/
abbrev Bus.statusViewOk (b : Bus) : Prop := b.statusView &&& 0x1F = 0

/-- The invariant that every step keeps. -/
structure State.Inv (s : State) : Prop where
  mem        : s.bus.memOk
  chr        : s.bus.chrOk s.cfg
  oam        : s.ppu.oamOk
  palette    : s.ppu.paletteOk
  timing     : s.ppu.timingOk s.cfg
  status     : s.cpu.statusOk
  statusView : s.bus.statusViewOk

/-- A run that never fails: every number of steps ends in a state. -/
def State.Safe (s : State) : Prop := ∀ k, ∃ t, Sys2Proof.core.run k s = .next t

/-- n PPU steps (49 R210), ending at the first failure. -/
def ppuRun : Nat → State → Host.Outcome State Fault Refusal
  | 0, s => .next s
  | n + 1, s => andThen (ppuStep s) (ppuRun n)

/-- Whether a call is a `cpu_step` or an entry call that is taken, the calls LATCH_SAFE_SCHEDULE (70_reset
R251) is about. -/
def Call.entersCpu (s : State) : Call → Bool
  | .cpuStep | .cpuNmi | .cpuReset => true
  | .cpuIrq => !s.flag .i
  | .boundary => (boundaryEntry s).isSome
  | .ppuStep | .ppuReset | .oamDma _ | .ppuResetFrames | .busReset => false
  | .setIrqLine _ | .requestReset _ | .hostWrite _ _ | .hostChrWrite _ _ | .hostSetPc _ | .hostSetExt _ => false

/-! ## The words of the statements -/

/-- The address of the stack byte that a value of S names (10_state R23). -/
def stackByte (sp : Byte) : Word := 0x0100 ||| sp.setWidth 16

/-- The word the reference bus's memory holds at an address, little-endian (20_memory R62). -/
def State.vectorWord (s : State) (a : Word) : Word := mkWord (s.peek (a + 1)) (s.peek a)

/-- Nothing changed but CPU registers, the bus's two pending slots and what is behind BUS (the reference bus's
memory, or the state of another bus): the CPU engine reaches nothing else (60_exceptions R240). -/
structure CpuOnly (s t : State) : Prop where
  ppu        : t.ppu = s.ppu
  chr        : t.bus.chr = s.bus.chr
  staged     : t.bus.staged = s.bus.staged
  statusView : t.bus.statusView = s.bus.statusView
  surface    : t.surface = s.surface
  host       : t.host = s.host
  cfg        : t.cfg = s.cfg

/-- No byte was stored and no write to a PPU register recorded. What loads of another bus than the reference bus
have done to it is not said. -/
structure NoStore (s t : State) : Prop extends CpuOnly s t where
  bytes        : ∀ a, t.peek a = s.peek a
  pendingWrite : t.bus.pendingWrite = s.bus.pendingWrite

/-- No data access at all. -/
structure NoAccess (s t : State) : Prop extends NoStore s t where
  pendingRead : t.bus.pendingRead = s.bus.pendingRead
  ext         : t.bus.ext = s.bus.ext

/-- The pending read after a read of an address (20_memory R55). -/
def readRecorded (a : Word) (s : State) : Option PpuReg :=
  match ppuRegAt a with
  | none => s.bus.pendingRead
  | some r => some r

/-- The pending write after a write of v at an address (20_memory R54). -/
def writeRecorded (a : Word) (v : Byte) (s : State) : Option (Byte × PpuReg) :=
  match ppuRegAt a with
  | none => s.bus.pendingWrite
  | some r => some (v, r)

/-- The state of the platform after a read of an address (20_memory R65): only a load of another bus than the
reference bus changes it. -/
def readExt (a : Word) (s : State) : List Nat :=
  match ppuRegAt a, s.cfg.bus with
  | none, .other k => (Config.busLoad k s.bus.ext a).2
  | _, _ => s.bus.ext

/-- The state of the platform after a write of v at an address (20_memory R56). -/
def writeExt (a : Word) (v : Byte) (s : State) : List Nat :=
  match ppuRegAt a, s.cfg.bus with
  | none, .other k => Config.busWrite k s.bus.ext a v
  | _, _ => s.bus.ext

/-- From s to t nothing was stored, and the last read was the one of a, made in state u. -/
structure ReadsAt (a : Word) (u s t : State) : Prop extends NoStore s t where
  pendingRead : t.bus.pendingRead = readRecorded a u
  ext         : t.bus.ext = readExt a u

/-- From s to t there was one store, of v at a, made in state u: to the reference bus's memory, to another bus, or
to a PPU register, which leaves the first two as they are. -/
structure StoresAt (a : Word) (v : Byte) (u s t : State) : Prop extends CpuOnly s t where
  bytes        : ∀ b, t.peek b = if b = a ∧ ppuRegAt a = none ∧ s.cfg.bus = .reference then v else s.peek b
  pendingWrite : t.bus.pendingWrite = writeRecorded a v u
  ext          : t.bus.ext = writeExt a v u

/-- The data read an operand makes: none for an immediate (40_dispatch R100). The pointer reads of izx and izy come
before it. -/
def OperandRead (o : Operand) (s t : State) : Prop :=
  match o with
  | .imm _ => NoAccess s t
  | .mem m => ReadsAt (effectiveAddress m s).1 (effectiveAddress m s).2 s t

/-- The flags after `SetZN(r)` (40_dispatch R107). -/
def znFlags (r : Byte) (s : State) (f : Flag) : Bool :=
  match f with
  | .z => decide (r = 0)
  | .n => r.getLsbD 7
  | f => s.flag f

/-- The flags with carry c and `SetZN(r)`. -/
def cznFlags (c : Bool) (r : Byte) (s : State) (f : Flag) : Bool :=
  match f with
  | .c => c
  | f => znFlags r s f

/-- Executing i in s gives a next state with the registers given (P apart), the flags given and the frame. -/
def Yields (i : Instr) (s : State) (regs : Cpu) (flags : Flag → Bool) (frame : State → Prop) : Prop :=
  ∃ t, exec i s = .next t ∧ t.cpu = { regs with p := t.cpu.p } ∧ (∀ f, t.flag f = flags f) ∧ frame t

/-- The three stores of an entry (42_special R116, 60_exceptions R225): the return address on the stack page, high
byte first, and P with its bit 5 set and its bit 4 as given. -/
def entryStores (ret : Word) (b : Bool) (s : State) : State :=
  memWrite (stackByte (s.cpu.s - 2)) ((s.cpu.p &&& 0xEF) ||| (if b then 0x30 else 0x20))
    (memWrite (stackByte (s.cpu.s - 1)) (loByte ret) (memWrite (stackByte s.cpu.s) (hiByte ret) s))

/-- What the entry sequence of BRK, NMI and IRQ leaves (42_special R116, 60_exceptions R225), on every bus: S three
less; P.I set; PC the word read at the vector after the three stores; on the bus, those stores and those reads;
nothing else. The last two fields say what this is on the reference bus. -/
structure Entered (ret : Word) (b : Bool) (vector : Word) (s t : State) : Prop extends CpuOnly s t where
  regs         : t.cpu =
    { s.cpu with s := s.cpu.s - 3, p := t.cpu.p, pc := (read16 vector (entryStores ret b s)).1 }
  flags        : ∀ f, t.flag f = if f = .i then true else s.flag f
  bus          : t.bus = (read16 vector (entryStores ret b s)).2.bus
  pendingWrite : t.bus.pendingWrite = s.bus.pendingWrite
  pendingRead  : t.bus.pendingRead = s.bus.pendingRead
  pc           : s.cfg.bus = .reference → t.cpu.pc = s.vectorWord vector
  bytes        : s.cfg.bus = .reference → ∀ a, t.peek a =
    if a = stackByte s.cpu.s then hiByte ret
    else if a = stackByte (s.cpu.s - 1) then loByte ret
    else if a = stackByte (s.cpu.s - 2) then (s.cpu.p &&& 0xEF) ||| (if b then 0x30 else 0x20)
    else s.peek a

end Sys2Proof.Machine
end

