-- ==== Sys2Proof/Certificates/Slice0/Obligations.lean ====
section
/-! DEFINITION. The statements for the provers. Each formalises rules of spec/, named in its docstring; the
words they use (frames, `Yields`, `stackByte`, ...) are in Safety.lean. -/

section

open Sys2Proof Sys2Proof.Machine

/-! ## Encoding (30_encoding) -/

/-- Words written out from the encodings of 41 to 47, one or more for each family, decode to the instruction
they stand for. -/
def Obligations.SampleWordsDecode : Prop :=
  decode [0x4C, 0x00, 0xC0] = .ok (.jmpAbs 0xC000, []) ∧
  decode [0x6C, 0x00, 0x03] = .ok (.jmpInd 0x0300, []) ∧
  decode [0x20, 0x00, 0x90] = .ok (.jsr 0x9000, []) ∧
  decode [0x00, 0xFF] = .ok (.brk, []) ∧
  decode [0x60, 0x77] = .ok (.rts, [0x77]) ∧
  decode [0xD0, 0xFB] = .ok (.bne 0xFB, []) ∧
  decode [0x0A] = .ok (.aslA, []) ∧
  decode [0x71, 0x20] = .ok (.adc (.mem (.izy 0x20)), []) ∧
  decode [0xBE, 0xFF, 0xFF] = .ok (.ldx (.mem (.aby 0xFFFF)), []) ∧
  decode [0x94, 0x10] = .ok (.sty (.zpx 0x10), []) ∧
  decode [0x89] = .ok (.illegal 0x89, [])

/-- Decoding the bytes of any well-formed instruction, with anything after them, gives that instruction and
what came after. -/
def Obligations.DecodeEncodeRoundTrip : Prop :=
  ∀ (i : Instr) (rest : List Byte), i.wf = true → decode (encode i ++ rest) = .ok (i, rest)

/-- What the decoder gives is always an instruction, it keeps its opcode byte, its length is that of the opcode
and, but for BRK's signature byte, encoding it gives the bytes back. The length of a legal opcode is the one R85
fixes; an illegal opcode has no length there, and the one byte it has here is the model's (log 19, DEDUCED). -/
def Obligations.DecodedInstructionKeepsItsBytes : Prop :=
  ∀ op b1 b2 : Byte,
    (decodeOp op b1 b2).wf = true ∧ (decodeOp op b1 b2).opcode = op ∧
      (decodeOp op b1 b2).length = opLength op ∧
      (decodeOp op b1 b2 ≠ .brk → encode (decodeOp op b1 b2) = [op, b1, b2].take (opLength op))

/-- R87: the 105 illegal encodings are the listed opcodes, and they are the illegal Common and Implied slots
and the Common pairs outside R84. -/
def Obligations.IllegalOpcodes : Prop :=
  illegalOpcodes.length = 105 ∧
  ∀ op b1 b2 : Byte,
    (op ∈ illegalOpcodes ↔ decodeOp op b1 b2 = .illegal op) ∧
    (op ∈ illegalOpcodes ↔
      match classify op with
      | .implied idx => idx.toNat ∈ [3, 7, 11, 15, 27, 31]
      | .common idx bbb =>
        idx.toNat ∈ [0, 3, 7, 8, 11, 12, 15, 19, 23, 27, 31] ∨
          ∃ h, commonTable idx = some h ∧ ∀ m, h.fieldMode bbb = some m → m ∉ h.validModes
      | .jump _ => False
      | .jsr => False
      | .special _ => False
      | .branch _ => False)

/-- R89: the sizes of the five families, and how many opcodes decode to an instruction. -/
def Obligations.FamilySizes : Prop :=
  let count (p : Byte → Bool) : Nat := ((List.range 256).filter fun n => p (BitVec.ofNat 8 n)).length
  count (fun op => match classify op with | .jump _ => true | _ => false) = 2 ∧
  count (fun op => match classify op with | .jsr => true | .special _ => true | _ => false) = 4 ∧
  count (fun op => match classify op with | .branch _ => true | _ => false) = 8 ∧
  count (fun op => match classify op with | .implied _ => true | _ => false) = 32 ∧
  count (fun op => match classify op with | .common _ _ => true | _ => false) = 210 ∧
  count (fun op => illegalOpcodes.contains op) = 105 ∧
  count (fun op => !illegalOpcodes.contains op) = 151 ∧
  ∀ op, match classify op with
    | .jump _ => True
    | .jsr => True
    | .special sel => sel.toNat < 4
    | .branch sel => sel.toNat < 8
    | .implied idx => idx.toNat < 32
    | .common idx _ => idx.toNat < 32

/-! ## The step (40_dispatch R93, R98) -/

/-- Where the next call is `cpu_step` and the bytes that reading at PC gives, in order, decode to i, the step is
exec of i in the state after the reads of its own bytes (BRK reads its opcode only, R116), on every bus and at
every address (R93, R98, R65), with the call taken off the list; where the bytes are memory of the reference
bus, they are what memory holds at PC and reading them only moves PC past them. The rest is the model's choice
and not the spec's words: the list of calls, that an empty list means `cpu_step`, and that under the
conventional schedule the PPU steps of R258 and the boundary decision are put before the calls already listed
(log 8, DESIGN CHOICE); and the count of 2 cycles for an illegal opcode under Nop (log 20, DESIGN CHOICE). -/
def Obligations.StepRunsDecodedInstruction : Prop :=
  ∀ (s : State) (i : Instr) (rest : List Byte),
    let start := s.dropCall.setOutcome .ok
    let f0 := fetchByte start
    let f1 := fetchByte f0.2
    let f2 := fetchByte f1.2
    let n := if i = .brk then 1 else i.length
    let fetched := if n = 1 then f0.2 else if n = 2 then f1.2 else f2.2
    s.cfg.wf → s.nextCall = .cpuStep → decode [f0.1, f1.1, f2.1] = .ok (i, rest) →
    (step s = andThen (exec i fetched) fun t =>
      match s.host.schedule with
      | .open => .next t
      | .conventional => .next (t.enqueue (ppuSteps (3 * cycles i fetched) ++ [.boundary]))) ∧
    (s.cfg.bus = .reference → (∀ k : Nat, k < n → ppuRegAt (s.cpu.pc + BitVec.ofNat 16 k) = none) →
      f0.1 = s.peek s.cpu.pc ∧ (1 < n → f1.1 = s.peek (s.cpu.pc + 1)) ∧ (2 < n → f2.1 = s.peek (s.cpu.pc + 2)) ∧
        fetched = start.setPc (s.cpu.pc + BitVec.ofNat 16 n))

/-! ## The CPU bus (20_memory, 10_state R36) -/

/-- R53, R56, R65, outside the PPU window. On the reference bus a load gives back the byte most recently written and
has no side effect, and a store changes that byte alone. On another bus a load and a store are one call of it, with
the value and the effect it gives. Neither changes anything else. -/
def Obligations.BusAccesses : Prop :=
  ∀ (a : Word) (v : Byte) (s : State), ppuRegAt a = none →
    (s.cfg.bus = .reference →
      memRead a s = (s.peek a, s) ∧
      (∀ b, (memWrite a v s).peek b = if b = a then v else s.peek b) ∧ (memWrite a v s).bus.ext = s.bus.ext) ∧
    (∀ k, s.cfg.bus = .other k →
      memRead a s =
        ((Config.busLoad k s.bus.ext a).1,
         { s with bus := { s.bus with ext := (Config.busLoad k s.bus.ext a).2 } }) ∧
      memWrite a v s = { s with bus := { s.bus with ext := Config.busWrite k s.bus.ext a v } }) ∧
    (memWrite a v s).cpu = s.cpu ∧ CpuOnly s (memWrite a v s) ∧
    (memWrite a v s).bus.pendingWrite = s.bus.pendingWrite ∧
    (memWrite a v s).bus.pendingRead = s.bus.pendingRead ∧
    (memRead a s).2.cpu = s.cpu ∧ ReadsAt a s s (memRead a s).2

/-- R36: the eight PPU register identities, their addresses, and their mirrors every 8 bytes through 0x3FFF. -/
def Obligations.RegisterWindow : Prop :=
  ppuRegAt 0x2000 = some .control ∧ ppuRegAt 0x2001 = some .mask ∧ ppuRegAt 0x2002 = some .status ∧
  ppuRegAt 0x2003 = some .oamAddr ∧ ppuRegAt 0x2004 = some .oamData ∧ ppuRegAt 0x2005 = some .scroll ∧
  ppuRegAt 0x2006 = some .address ∧ ppuRegAt 0x2007 = some .data ∧
  ∀ a : Word, ppuRegAt a =
    if 0x2000 ≤ a.toNat ∧ a.toNat ≤ 0x3FFF then ppuRegAt (BitVec.ofNat 16 (0x2000 + a.toNat % 8)) else none

/-- R54, R55, R65: a write to a PPU register only replaces the pending write; a read only replaces the
pending read, and gives `status_view` or `staged`; an instruction or operand fetch is such a read too.
Nothing is said of the value of the other registers, which is a draw. -/
def Obligations.RegisterAccesses : Prop :=
  ∀ (a : Word) (r : PpuReg) (v : Byte) (s : State), ppuRegAt a = some r →
    memWrite a v s = { s with bus := { s.bus with pendingWrite := some (v, r) } } ∧
    (r = .status → (memRead a s).1 = s.bus.statusView) ∧
    (r = .data → (memRead a s).1 = s.bus.staged) ∧
    (memRead a s).2.bus.pendingRead = some r ∧ (memRead a s).2.bus.ext = s.bus.ext ∧
    (memRead a s).2.cpu = s.cpu ∧ NoStore s (memRead a s).2 ∧
    (s.cpu.pc = a → (fetchByte s).1 = (memRead a s).1 ∧ (fetchByte s).2.bus.pendingRead = some r ∧
      (fetchByte s).2.cpu = { s.cpu with pc := a + 1 })

/-- R99: the effective address of every memory mode. The pointers of izx and izy are read in zero page, low byte
first; those reads record nothing and store nothing, and on the reference bus have no effect at all. -/
def Obligations.EffectiveAddresses : Prop :=
  ∀ (s : State) (a : Byte) (w : Word),
    let pointer := fun (p : Byte) =>
      let lo := memRead (p.setWidth 16) s
      let hi := memRead ((p + 1).setWidth 16) lo.2
      (mkWord hi.1 lo.1, hi.2)
    effectiveAddress (.zp a) s = (a.setWidth 16, s) ∧
    effectiveAddress (.zpx a) s = ((a + s.cpu.x).setWidth 16, s) ∧
    effectiveAddress (.zpy a) s = ((a + s.cpu.y).setWidth 16, s) ∧
    effectiveAddress (.abs w) s = (w, s) ∧
    effectiveAddress (.abx w) s = (w + s.cpu.x.setWidth 16, s) ∧
    effectiveAddress (.aby w) s = (w + s.cpu.y.setWidth 16, s) ∧
    effectiveAddress (.izx a) s = pointer (a + s.cpu.x) ∧
    effectiveAddress (.izy a) s = ((pointer a).1 + s.cpu.y.setWidth 16, (pointer a).2) ∧
    ∀ m, (effectiveAddress m s).2.cpu = s.cpu ∧ NoStore s (effectiveAddress m s).2 ∧
      (effectiveAddress m s).2.bus.pendingRead = s.bus.pendingRead ∧
      (s.cfg.bus = .reference → (effectiveAddress m s).2 = s)

/-- R100 to R102: an operand is the immediate byte or exactly one data read at the effective address; a store
is one write there and no read; a read-modify-write is one read and then one write there. -/
def Obligations.OperandAccesses : Prop :=
  ∀ (m : MemOperand) (v : Byte) (f : Byte → Byte) (s : State),
    let ea := effectiveAddress m s
    let old := memRead ea.1 ea.2
    readOperand (.imm v) s = (v, s) ∧
    readOperand (.mem m) s = old ∧ ReadsAt ea.1 ea.2 s (readOperand (.mem m) s).2 ∧
    store m v s = memWrite ea.1 v ea.2 ∧ StoresAt ea.1 v ea.2 s (store m v s) ∧
    (store m v s).bus.pendingRead = s.bus.pendingRead ∧
    modify m f s = (old.1, memWrite ea.1 (f old.1) old.2) ∧
    StoresAt ea.1 (f old.1) old.2 s (modify m f s).2 ∧
    (modify m f s).2.bus.pendingRead = readRecorded ea.1 s

/-! ## The stack (40_dispatch R103 to R106) -/

/-- R103 to R106: a push writes at S and then decrements it, a pull increments S and then reads, words go high
byte first and come low byte first, all within the stack page and modulo 256; no access of them is recorded as one
of a PPU register. On the reference bus, whose stack page is memory (as R249 asks of every bus), a word pushed and
pulled back at once is the word, and S is what it was, for every S. -/
def Obligations.StackOperations : Prop :=
  ∀ (b : Byte) (w : Word) (s : State), s.cfg.standard →
    push b s = (memWrite (stackByte s.cpu.s) b s).setS (s.cpu.s - 1) ∧
    (push b s).cpu = { s.cpu with s := s.cpu.s - 1 } ∧ CpuOnly s (push b s) ∧
    (push b s).bus.pendingWrite = s.bus.pendingWrite ∧ (push b s).bus.pendingRead = s.bus.pendingRead ∧
    pull s = ((memRead (stackByte (s.cpu.s + 1)) s).1, (memRead (stackByte (s.cpu.s + 1)) s).2.setS (s.cpu.s + 1)) ∧
    pushWord w s = push (loByte w) (push (hiByte w) s) ∧
    pullWord s = (mkWord (pull (pull s).2).1 (pull s).1, (pull (pull s).2).2) ∧
    (s.cfg.bus = .reference →
      (∀ a, (push b s).peek a = if a = stackByte s.cpu.s then b else s.peek a) ∧
      pull s = (s.peek (stackByte (s.cpu.s + 1)), s.setS (s.cpu.s + 1)) ∧
      pullWord s =
        (mkWord (s.peek (stackByte (s.cpu.s + 2))) (s.peek (stackByte (s.cpu.s + 1))), s.setS (s.cpu.s + 2)) ∧
      (pullWord (pushWord w s)).1 = w ∧ (pullWord (pushWord w s)).2.cpu = s.cpu)

/-! ## Arithmetic (40_dispatch R107 to R112) -/

/-- R108: the adder's result and carry are the 9-bit sum, and its overflow is the source's formula, which is
true exactly when the signed sum does not fit a signed byte. -/
def Obligations.AdderIsBinary : Prop :=
  ∀ (a m : Byte) (cin : Bool),
    let sum := addWithCarry a m cin
    sum.r.toNat = (a.toNat + m.toNat + cin.toNat) % 256 ∧
    (sum.c = true ↔ 255 < a.toNat + m.toNat + cin.toNat) ∧
    (sum.v = true ↔ ((sum.r ^^^ a) &&& (sum.r ^^^ m) &&& 0x80) ≠ 0) ∧
    (sum.v = true ↔
      a.toInt + m.toInt + (cin.toNat : Int) < -128 ∨ 127 < a.toInt + m.toInt + (cin.toNat : Int))

/-! ## Instructions: the Common family (45, 46, 47)

Each of these says that the instruction completes, in every form, in every state, with what it writes, what
it reads and what it leaves. `exec` starts after the instruction's bytes were fetched, so PC stands already
past them. -/

/-- R157 to R159: ORA, AND, EOR. A is combined with the operand; Z and N follow the result; nothing else
changes. -/
def Obligations.LogicResults : Prop :=
  (∀ bbb b1 b2, decodeOp (commonOpcode 0 bbb 1) b1 b2 = .ora ((modeGroup1 bbb).operand b1 b2) ∧
    decodeOp (commonOpcode 1 bbb 1) b1 b2 = .and ((modeGroup1 bbb).operand b1 b2) ∧
    decodeOp (commonOpcode 2 bbb 1) b1 b2 = .eor ((modeGroup1 bbb).operand b1 b2)) ∧
  ∀ (o : Operand) (s : State),
    let m := (readOperand o s).1
    Yields (.ora o) s { s.cpu with a := s.cpu.a ||| m } (znFlags (s.cpu.a ||| m) s) (OperandRead o s) ∧
    Yields (.and o) s { s.cpu with a := s.cpu.a &&& m } (znFlags (s.cpu.a &&& m) s) (OperandRead o s) ∧
    Yields (.eor o) s { s.cpu with a := s.cpu.a ^^^ m } (znFlags (s.cpu.a ^^^ m) s) (OperandRead o s)

/-- R160, R164: ADC adds the operand and the carry, SBC the complemented operand and the carry, in binary
whatever D holds; C, V, Z and N follow; SBC's carry is 1 exactly when there is no borrow. -/
def Obligations.AddSubtractResults : Prop :=
  (∀ bbb b1 b2, decodeOp (commonOpcode 3 bbb 1) b1 b2 = .adc ((modeGroup1 bbb).operand b1 b2) ∧
    decodeOp (commonOpcode 7 bbb 1) b1 b2 = .sbc ((modeGroup1 bbb).operand b1 b2)) ∧
  ∀ (o : Operand) (s : State),
    let m := (readOperand o s).1
    let sum := addWithCarry s.cpu.a m (s.flag .c)
    let dif := addWithCarry s.cpu.a (~~~m) (s.flag .c)
    Yields (.adc o) s { s.cpu with a := sum.r }
      (fun f => if f = .v then sum.v else cznFlags sum.c sum.r s f) (OperandRead o s) ∧
    Yields (.sbc o) s { s.cpu with a := dif.r }
      (fun f => if f = .v then dif.v else cznFlags dif.c dif.r s f) (OperandRead o s) ∧
    (dif.c = true ↔ 0 ≤ (s.cpu.a.toNat : Int) - (m.toNat : Int) - (1 - ((s.flag .c).toNat : Int)))

/-- R162, R170, R175: LDA, LDX and LDY load the operand; Z and N follow it. -/
def Obligations.LoadResults : Prop :=
  (∀ bbb b1 b2, decodeOp (commonOpcode 5 bbb 1) b1 b2 = .lda ((modeGroup1 bbb).operand b1 b2)) ∧
  (∀ b1 b2,
    decodeOp 0xA2 b1 b2 = .ldx (.imm b1) ∧ decodeOp 0xA6 b1 b2 = .ldx (.mem (.zp b1)) ∧
    decodeOp 0xAE b1 b2 = .ldx (.mem (.abs (mkWord b2 b1))) ∧ decodeOp 0xB6 b1 b2 = .ldx (.mem (.zpy b1)) ∧
    decodeOp 0xBE b1 b2 = .ldx (.mem (.aby (mkWord b2 b1))) ∧ decodeOp 0xB2 b1 b2 = .illegal 0xB2 ∧
    decodeOp 0xA0 b1 b2 = .ldy (.imm b1) ∧ decodeOp 0xA4 b1 b2 = .ldy (.mem (.zp b1)) ∧
    decodeOp 0xAC b1 b2 = .ldy (.mem (.abs (mkWord b2 b1))) ∧ decodeOp 0xB4 b1 b2 = .ldy (.mem (.zpx b1)) ∧
    decodeOp 0xBC b1 b2 = .ldy (.mem (.abx (mkWord b2 b1)))) ∧
  ∀ (o : Operand) (s : State),
    let m := (readOperand o s).1
    Yields (.lda o) s { s.cpu with a := m } (znFlags m s) (OperandRead o s) ∧
    Yields (.ldx o) s { s.cpu with x := m } (znFlags m s) (OperandRead o s) ∧
    Yields (.ldy o) s { s.cpu with y := m } (znFlags m s) (OperandRead o s)

/-- R109, R163, R176, R177: CMP, CPX and CPY write no register; C is the unsigned comparison, Z equality, N
bit 7 of the difference; V is unchanged. -/
def Obligations.CompareResults : Prop :=
  (∀ bbb b1 b2, decodeOp (commonOpcode 6 bbb 1) b1 b2 = .cmp ((modeGroup1 bbb).operand b1 b2)) ∧
  (∀ b1 b2,
    decodeOp 0xC0 b1 b2 = .cpy (.imm b1) ∧ decodeOp 0xC4 b1 b2 = .cpy (.mem (.zp b1)) ∧
    decodeOp 0xCC b1 b2 = .cpy (.mem (.abs (mkWord b2 b1))) ∧
    decodeOp 0xD4 b1 b2 = .illegal 0xD4 ∧ decodeOp 0xDC b1 b2 = .illegal 0xDC ∧
    decodeOp 0xE0 b1 b2 = .cpx (.imm b1) ∧ decodeOp 0xE4 b1 b2 = .cpx (.mem (.zp b1)) ∧
    decodeOp 0xEC b1 b2 = .cpx (.mem (.abs (mkWord b2 b1))) ∧
    decodeOp 0xF4 b1 b2 = .illegal 0xF4 ∧ decodeOp 0xFC b1 b2 = .illegal 0xFC) ∧
  ∀ (o : Operand) (s : State),
    let m := (readOperand o s).1
    let flags := fun (r : Byte) (f : Flag) =>
      match f with
      | .c => decide (m.toNat ≤ r.toNat)
      | .z => decide (r = m)
      | .n => decide (128 ≤ ((r.toNat : Int) - (m.toNat : Int)) % 256)
      | f => s.flag f
    Yields (.cmp o) s s.cpu (flags s.cpu.a) (OperandRead o s) ∧
    Yields (.cpx o) s s.cpu (flags s.cpu.x) (OperandRead o s) ∧
    Yields (.cpy o) s s.cpu (flags s.cpu.y) (OperandRead o s)

/-- R173: BIT. Z from A and M, N and V from bits 7 and 6 of M; no register is written. -/
def Obligations.BitResult : Prop :=
  (∀ b1 b2, decodeOp 0x24 b1 b2 = .bit (.zp b1) ∧ decodeOp 0x2C b1 b2 = .bit (.abs (mkWord b2 b1)) ∧
    decodeOp 0x34 b1 b2 = .illegal 0x34 ∧ decodeOp 0x3C b1 b2 = .illegal 0x3C) ∧
  ∀ (a : MemOperand) (s : State),
    let m := (readMem a s).1
    Yields (.bit a) s s.cpu
      (fun f => match f with
        | .z => decide (s.cpu.a &&& m = 0)
        | .n => m.getLsbD 7
        | .v => m.getLsbD 6
        | f => s.flag f)
      (OperandRead (.mem a) s)

/-- R161, R169, R174: STA, STX and STY store the register at the effective address, without reading it, and
write no flag. -/
def Obligations.StoreResults : Prop :=
  (∀ b1 b2, decodeOp 0x81 b1 b2 = .sta (.izx b1) ∧ decodeOp 0x85 b1 b2 = .sta (.zp b1) ∧
    decodeOp 0x8D b1 b2 = .sta (.abs (mkWord b2 b1)) ∧ decodeOp 0x91 b1 b2 = .sta (.izy b1) ∧
    decodeOp 0x95 b1 b2 = .sta (.zpx b1) ∧ decodeOp 0x99 b1 b2 = .sta (.aby (mkWord b2 b1)) ∧
    decodeOp 0x9D b1 b2 = .sta (.abx (mkWord b2 b1)) ∧ decodeOp 0x89 b1 b2 = .illegal 0x89 ∧
    decodeOp 0x86 b1 b2 = .stx (.zp b1) ∧ decodeOp 0x8E b1 b2 = .stx (.abs (mkWord b2 b1)) ∧
    decodeOp 0x96 b1 b2 = .stx (.zpy b1) ∧ decodeOp 0x82 b1 b2 = .illegal 0x82 ∧
    decodeOp 0x92 b1 b2 = .illegal 0x92 ∧ decodeOp 0x9E b1 b2 = .illegal 0x9E ∧
    decodeOp 0x84 b1 b2 = .sty (.zp b1) ∧ decodeOp 0x8C b1 b2 = .sty (.abs (mkWord b2 b1)) ∧
    decodeOp 0x94 b1 b2 = .sty (.zpx b1) ∧ decodeOp 0x80 b1 b2 = .illegal 0x80 ∧
    decodeOp 0x9C b1 b2 = .illegal 0x9C) ∧
  ∀ (m : MemOperand) (s : State),
    let ea := effectiveAddress m s
    let frame := fun (v : Byte) (t : State) => StoresAt ea.1 v ea.2 s t ∧ t.bus.pendingRead = s.bus.pendingRead
    Yields (.sta m) s s.cpu s.flag (frame s.cpu.a) ∧
    Yields (.stx m) s s.cpu s.flag (frame s.cpu.x) ∧
    Yields (.sty m) s s.cpu s.flag (frame s.cpu.y)

/-- R165 to R168: ASL, ROL, LSR and ROR of memory: one read and one write at the effective address; C is the
bit shifted out; Z and N follow the result; V is unchanged. -/
def Obligations.ShiftMemoryResults : Prop :=
  (∀ b1 b2,
    decodeOp 0x06 b1 b2 = .asl (.zp b1) ∧ decodeOp 0x0E b1 b2 = .asl (.abs (mkWord b2 b1)) ∧
    decodeOp 0x16 b1 b2 = .asl (.zpx b1) ∧ decodeOp 0x1E b1 b2 = .asl (.abx (mkWord b2 b1)) ∧
    decodeOp 0x26 b1 b2 = .rol (.zp b1) ∧ decodeOp 0x2E b1 b2 = .rol (.abs (mkWord b2 b1)) ∧
    decodeOp 0x36 b1 b2 = .rol (.zpx b1) ∧ decodeOp 0x3E b1 b2 = .rol (.abx (mkWord b2 b1)) ∧
    decodeOp 0x46 b1 b2 = .lsr (.zp b1) ∧ decodeOp 0x4E b1 b2 = .lsr (.abs (mkWord b2 b1)) ∧
    decodeOp 0x56 b1 b2 = .lsr (.zpx b1) ∧ decodeOp 0x5E b1 b2 = .lsr (.abx (mkWord b2 b1)) ∧
    decodeOp 0x66 b1 b2 = .ror (.zp b1) ∧ decodeOp 0x6E b1 b2 = .ror (.abs (mkWord b2 b1)) ∧
    decodeOp 0x76 b1 b2 = .ror (.zpx b1) ∧ decodeOp 0x7E b1 b2 = .ror (.abx (mkWord b2 b1)) ∧
    ∀ op ∈ ([0x02, 0x12, 0x22, 0x32, 0x42, 0x52, 0x62, 0x72] : List Byte), decodeOp op b1 b2 = .illegal op) ∧
  ∀ (m : MemOperand) (s : State),
    let ea := effectiveAddress m s
    let old := memRead ea.1 ea.2
    let v := old.1
    let frame := fun (r : Byte) (t : State) =>
      StoresAt ea.1 r old.2 s t ∧ t.bus.pendingRead = readRecorded ea.1 s
    let cin : Byte := if s.flag .c then 1 else 0
    Yields (.asl m) s s.cpu (cznFlags (v.getLsbD 7) (v <<< 1) s) (frame (v <<< 1)) ∧
    Yields (.rol m) s s.cpu (cznFlags (v.getLsbD 7) ((v <<< 1) ||| cin) s) (frame ((v <<< 1) ||| cin)) ∧
    Yields (.lsr m) s s.cpu (cznFlags (v.getLsbD 0) (v >>> 1) s) (frame (v >>> 1)) ∧
    Yields (.ror m) s s.cpu (cznFlags (v.getLsbD 0) ((v >>> 1) ||| (cin <<< 7)) s) (frame ((v >>> 1) ||| (cin <<< 7)))

/-- R171, R172: DEC and INC of memory, modulo 256; Z and N follow the result; C and V are unchanged. -/
def Obligations.IncDecMemoryResults : Prop :=
  (∀ b1 b2,
    decodeOp 0xC6 b1 b2 = .dec (.zp b1) ∧ decodeOp 0xCE b1 b2 = .dec (.abs (mkWord b2 b1)) ∧
    decodeOp 0xD6 b1 b2 = .dec (.zpx b1) ∧ decodeOp 0xDE b1 b2 = .dec (.abx (mkWord b2 b1)) ∧
    decodeOp 0xE6 b1 b2 = .inc (.zp b1) ∧ decodeOp 0xEE b1 b2 = .inc (.abs (mkWord b2 b1)) ∧
    decodeOp 0xF6 b1 b2 = .inc (.zpx b1) ∧ decodeOp 0xFE b1 b2 = .inc (.abx (mkWord b2 b1)) ∧
    ∀ op ∈ ([0xC2, 0xD2, 0xE2, 0xF2] : List Byte), decodeOp op b1 b2 = .illegal op) ∧
  ∀ (m : MemOperand) (s : State),
    let ea := effectiveAddress m s
    let old := memRead ea.1 ea.2
    let v := old.1
    let frame := fun (r : Byte) (t : State) =>
      StoresAt ea.1 r old.2 s t ∧ t.bus.pendingRead = readRecorded ea.1 s
    Yields (.dec m) s s.cpu (znFlags (v - 1) s) (frame (v - 1)) ∧
    Yields (.inc m) s s.cpu (znFlags (v + 1) s) (frame (v + 1))

/-! ## Instructions: the Implied family (44) -/

/-- R151 to R154: ASL, ROL, LSR and ROR of the accumulator. -/
def Obligations.ShiftAccumulatorResults : Prop :=
  (∀ b1 b2, decodeOp 0x0A b1 b2 = .aslA ∧ decodeOp 0x2A b1 b2 = .rolA ∧ decodeOp 0x4A b1 b2 = .lsrA ∧
    decodeOp 0x6A b1 b2 = .rorA) ∧
  ∀ s : State,
    let v := s.cpu.a
    let cin : Byte := if s.flag .c then 1 else 0
    Yields .aslA s { s.cpu with a := v <<< 1 } (cznFlags (v.getLsbD 7) (v <<< 1) s) (NoAccess s) ∧
    Yields .rolA s { s.cpu with a := (v <<< 1) ||| cin } (cznFlags (v.getLsbD 7) ((v <<< 1) ||| cin) s) (NoAccess s) ∧
    Yields .lsrA s { s.cpu with a := v >>> 1 } (cznFlags (v.getLsbD 0) (v >>> 1) s) (NoAccess s) ∧
    Yields .rorA s { s.cpu with a := (v >>> 1) ||| (cin <<< 7) }
      (cznFlags (v.getLsbD 0) ((v >>> 1) ||| (cin <<< 7)) s) (NoAccess s)

/-- R134 to R140: CLC, SEC, CLI, SEI, CLV, CLD and SED write the one flag they name, and nothing else. -/
def Obligations.FlagInstructionResults : Prop :=
  (∀ b1 b2, decodeOp 0x18 b1 b2 = .clc ∧ decodeOp 0x38 b1 b2 = .sec ∧ decodeOp 0x58 b1 b2 = .cli ∧
    decodeOp 0x78 b1 b2 = .sei ∧ decodeOp 0xB8 b1 b2 = .clv ∧ decodeOp 0xD8 b1 b2 = .cld ∧
    decodeOp 0xF8 b1 b2 = .sed) ∧
  ∀ s : State,
    let put := fun (g : Flag) (v : Bool) (f : Flag) => if f = g then v else s.flag f
    Yields .clc s s.cpu (put .c false) (NoAccess s) ∧ Yields .sec s s.cpu (put .c true) (NoAccess s) ∧
    Yields .cli s s.cpu (put .i false) (NoAccess s) ∧ Yields .sei s s.cpu (put .i true) (NoAccess s) ∧
    Yields .clv s s.cpu (put .v false) (NoAccess s) ∧ Yields .cld s s.cpu (put .d false) (NoAccess s) ∧
    Yields .sed s s.cpu (put .d true) (NoAccess s)

/-- R141 to R146: the register transfers. TXS, alone, writes no flag. -/
def Obligations.TransferResults : Prop :=
  (∀ b1 b2, decodeOp 0xAA b1 b2 = .tax ∧ decodeOp 0xA8 b1 b2 = .tay ∧ decodeOp 0x8A b1 b2 = .txa ∧
    decodeOp 0x98 b1 b2 = .tya ∧ decodeOp 0x9A b1 b2 = .txs ∧ decodeOp 0xBA b1 b2 = .tsx) ∧
  ∀ s : State,
    Yields .tax s { s.cpu with x := s.cpu.a } (znFlags s.cpu.a s) (NoAccess s) ∧
    Yields .tay s { s.cpu with y := s.cpu.a } (znFlags s.cpu.a s) (NoAccess s) ∧
    Yields .txa s { s.cpu with a := s.cpu.x } (znFlags s.cpu.x s) (NoAccess s) ∧
    Yields .tya s { s.cpu with a := s.cpu.y } (znFlags s.cpu.y s) (NoAccess s) ∧
    Yields .txs s { s.cpu with s := s.cpu.x } s.flag (NoAccess s) ∧
    Yields .tsx s { s.cpu with x := s.cpu.s } (znFlags s.cpu.s s) (NoAccess s)

/-- R147 to R150: INX, INY, DEX and DEY, modulo 256; Z and N only. -/
def Obligations.IndexStepResults : Prop :=
  (∀ b1 b2, decodeOp 0xE8 b1 b2 = .inx ∧ decodeOp 0xC8 b1 b2 = .iny ∧ decodeOp 0xCA b1 b2 = .dex ∧
    decodeOp 0x88 b1 b2 = .dey) ∧
  ∀ s : State,
    let up := fun (r : Byte) => BitVec.ofNat 8 ((r.toNat + 1) % 256)
    let down := fun (r : Byte) => BitVec.ofNat 8 ((r.toNat + 255) % 256)
    Yields .inx s { s.cpu with x := up s.cpu.x } (znFlags (up s.cpu.x) s) (NoAccess s) ∧
    Yields .iny s { s.cpu with y := up s.cpu.y } (znFlags (up s.cpu.y) s) (NoAccess s) ∧
    Yields .dex s { s.cpu with x := down s.cpu.x } (znFlags (down s.cpu.x) s) (NoAccess s) ∧
    Yields .dey s { s.cpu with y := down s.cpu.y } (znFlags (down s.cpu.y) s) (NoAccess s)

/-- R155: NOP does nothing besides the PC advance past the opcode, which the fetch has made. -/
def Obligations.NopResult : Prop :=
  (∀ b1 b2, decodeOp 0xEA b1 b2 = .nop) ∧ ∀ s : State, exec .nop s = .next s

/-- R130, R132: PHP pushes P with bits 5 and 4 set, PHA pushes A; S wraps; no flag and no other byte changes. -/
def Obligations.PushInstructionResults : Prop :=
  (∀ b1 b2, decodeOp 0x08 b1 b2 = .php ∧ decodeOp 0x48 b1 b2 = .pha) ∧
  ∀ s : State, s.cfg.standard →
    let regs : Cpu := { s.cpu with s := s.cpu.s - 1 }
    let frame := fun (v : Byte) (t : State) =>
      StoresAt (stackByte s.cpu.s) v s s t ∧ t.bus.pendingRead = s.bus.pendingRead
    Yields .php s regs s.flag (frame (s.cpu.p ||| 0x30)) ∧
    Yields .pha s regs s.flag (frame s.cpu.a)

/-- R131, R133, R112: PLP takes N, V, D, I, Z and C from the pulled byte, with bit 5 set and bit 4 clear; PLA
loads A, and Z and N follow it; S wraps. -/
def Obligations.PullInstructionResults : Prop :=
  (∀ b1 b2, decodeOp 0x28 b1 b2 = .plp ∧ decodeOp 0x68 b1 b2 = .pla) ∧
  ∀ s : State, s.cfg.standard →
    let at' := stackByte (s.cpu.s + 1)
    let v := (memRead at' s).1
    let frame := fun (t : State) => ReadsAt at' s s t ∧ t.bus.pendingRead = s.bus.pendingRead
    Yields .plp s { s.cpu with s := s.cpu.s + 1 }
      (fun f => match f with | .u => true | .b => false | f => getFlag v f) frame ∧
    Yields .pla s { s.cpu with s := s.cpu.s + 1, a := v } (znFlags v s) frame

/-! ## Instructions: control flow (41, 42, 43) -/

/-- R113, R114: JMP. The indirect form reads the target's low byte and then its high byte; where
JMP_INDIRECT_PAGE_WRAP holds, the high byte's address stays in the pointer's page. -/
def Obligations.JumpResults : Prop :=
  (∀ b1 b2, decodeOp 0x4C b1 b2 = .jmpAbs (mkWord b2 b1) ∧ decodeOp 0x6C b1 b2 = .jmpInd (mkWord b2 b1)) ∧
  ∀ (w : Word) (s : State),
    let ha := if s.cfg.jmpIndirectPageWrap = true then (w &&& 0xFF00) ||| ((w + 1) &&& 0x00FF) else w + 1
    let lo := memRead w s
    let hi := memRead ha lo.2
    Yields (.jmpAbs w) s { s.cpu with pc := w } s.flag (NoAccess s) ∧
    Yields (.jmpInd w) s { s.cpu with pc := mkWord hi.1 lo.1 } s.flag
      (ReadsAt ha lo.2 s)

/-- R115, R118: JSR pushes the address of its own last byte, high byte first, and goes to the target; PC stands
past the instruction, so that address is PC - 1. RTS goes to the pulled word plus one. -/
def Obligations.SubroutineResults : Prop :=
  (∀ b1 b2, decodeOp 0x20 b1 b2 = .jsr (mkWord b2 b1) ∧ decodeOp 0x60 b1 b2 = .rts) ∧
  ∀ (target : Word) (s : State), s.cfg.standard →
    let ret := s.cpu.pc - 1
    let lo := memRead (stackByte (s.cpu.s + 1)) s
    let hi := memRead (stackByte (s.cpu.s + 2)) lo.2
    Yields (.jsr target) s { s.cpu with s := s.cpu.s - 2, pc := target } s.flag
      (fun t => CpuOnly s t ∧
        t.bus = (memWrite (stackByte (s.cpu.s - 1)) (loByte ret) (memWrite (stackByte s.cpu.s) (hiByte ret) s)).bus ∧
        t.bus.pendingWrite = s.bus.pendingWrite ∧ t.bus.pendingRead = s.bus.pendingRead ∧
        (s.cfg.bus = .reference → ∀ a, t.peek a =
          if a = stackByte s.cpu.s then hiByte ret
          else if a = stackByte (s.cpu.s - 1) then loByte ret
          else s.peek a)) ∧
    Yields .rts s { s.cpu with s := s.cpu.s + 2, pc := mkWord hi.1 lo.1 + 1 } s.flag
      (fun t => NoStore s t ∧ t.bus = hi.2.bus ∧ t.bus.pendingRead = s.bus.pendingRead ∧
        (s.cfg.bus = .reference → NoAccess s t))

/-- R116: BRK takes the entry sequence with the pushed bit 4 set, the return address past its signature byte
and the vector 0xFFFE, whatever P.I holds. PC stands one past the opcode, so the return address is PC + 1. -/
def Obligations.BrkResult : Prop :=
  (∀ b1 b2, decodeOp 0x00 b1 b2 = .brk ∧ operandBytes 0x00 = 0) ∧
  ∀ s : State, s.cfg.standard → ∃ t, exec .brk s = .next t ∧ Entered (s.cpu.pc + 1) true 0xFFFE s t

/-- R117: RTI pulls P, every flag but bits 5 and 4 from the pulled byte, and then PC, as it is. -/
def Obligations.RtiResult : Prop :=
  (∀ b1 b2, decodeOp 0x40 b1 b2 = .rti) ∧
  ∀ s : State, s.cfg.standard →
    let p := memRead (stackByte (s.cpu.s + 1)) s
    let lo := memRead (stackByte (s.cpu.s + 2)) p.2
    let hi := memRead (stackByte (s.cpu.s + 3)) lo.2
    Yields .rti s { s.cpu with s := s.cpu.s + 3, pc := mkWord hi.1 lo.1 }
      (fun f => match f with
        | .u => true
        | .b => false
        | f => getFlag p.1 f)
      (fun t => NoStore s t ∧ t.bus = hi.2.bus ∧ t.bus.pendingRead = s.bus.pendingRead ∧
        (s.cfg.bus = .reference → NoAccess s t))

/-- On the reference bus, whose stack page is memory (as R249 asks of every bus), RTS undoes JSR, and RTI undoes BRK,
NMI and IRQ entry: the registers are back, PC is the address after the JSR, BRK's signature byte or the interrupted
instruction, and every flag is what it was. -/
def Obligations.ReturnsUndoEntries : Prop :=
  ∀ (target : Word) (s : State), s.cfg.standard → s.cfg.bus = .reference → s.cpu.statusOk →
    (∃ t u, exec (.jsr target) s = .next t ∧ exec .rts t = .next u ∧ u.cpu = s.cpu) ∧
    (∃ t u, exec .brk s = .next t ∧ exec .rti t = .next u ∧ u.cpu = { s.cpu with pc := s.cpu.pc + 1 }) ∧
    (∃ u, exec .rti (cpuNmi s) = .next u ∧ u.cpu = s.cpu) ∧
    (s.flag .i = false → ∃ u, exec .rti (cpuIrq s) = .next u ∧ u.cpu = s.cpu)

/-- R121 to R129: each branch adds its displacement to the PC past it exactly when its flag has its value, and
changes nothing else. -/
def Obligations.BranchResults : Prop :=
  (∀ b1 b2, decodeOp 0x10 b1 b2 = .bpl b1 ∧ decodeOp 0x30 b1 b2 = .bmi b1 ∧ decodeOp 0x50 b1 b2 = .bvc b1 ∧
    decodeOp 0x70 b1 b2 = .bvs b1 ∧ decodeOp 0x90 b1 b2 = .bcc b1 ∧ decodeOp 0xB0 b1 b2 = .bcs b1 ∧
    decodeOp 0xD0 b1 b2 = .bne b1 ∧ decodeOp 0xF0 b1 b2 = .beq b1) ∧
  ∀ (rel : Byte) (s : State),
    let go := fun (taken : Prop) [Decidable taken] =>
      ({ s.cpu with pc := if taken then s.cpu.pc + branchOffset s.cfg.branchOffsetMode rel else s.cpu.pc } : Cpu)
    Yields (.bpl rel) s (go (s.flag .n = false)) s.flag (NoAccess s) ∧
    Yields (.bmi rel) s (go (s.flag .n = true)) s.flag (NoAccess s) ∧
    Yields (.bvc rel) s (go (s.flag .v = false)) s.flag (NoAccess s) ∧
    Yields (.bvs rel) s (go (s.flag .v = true)) s.flag (NoAccess s) ∧
    Yields (.bcc rel) s (go (s.flag .c = false)) s.flag (NoAccess s) ∧
    Yields (.bcs rel) s (go (s.flag .c = true)) s.flag (NoAccess s) ∧
    Yields (.bne rel) s (go (s.flag .z = false)) s.flag (NoAccess s) ∧
    Yields (.beq rel) s (go (s.flag .z = true)) s.flag (NoAccess s)

/-- R120: the two readings of a displacement byte, as signed integers, and where they agree. -/
def Obligations.BranchOffsetReadings : Prop :=
  ∀ b : Byte,
    branchOffset .twosComplement b =
      BitVec.ofInt 16 (if b.toNat < 128 then (b.toNat : Int) else (b.toNat : Int) - 256) ∧
    branchOffset .signMagnitude b =
      BitVec.ofInt 16 (if b.toNat < 128 then (b.toNat : Int) else 128 - (b.toNat : Int)) ∧
    (branchOffset .twosComplement b = branchOffset .signMagnitude b ↔ b.toNat < 0x80 ∨ b = 0xC0)

/-- R96: an illegal opcode, under Report, is the failure IllegalOpcode(op, pc0), which leaves PC at the opcode and
nothing but the effect of the opcode fetch's own read, so that a fetch without an effect leaves the state as it was
and the same failure comes again; under Nop it consumes one byte, has no other effect and has the outcome
IllegalAsNop(op, pc0). No operand byte is fetched. In `exec`, PC stands at pc0 + 1. -/
def Obligations.IllegalOpcodeOutcome : Prop :=
  ∀ (op : Byte) (s : State),
    (op ∈ illegalOpcodes → operandBytes op = 0) ∧
    (s.cfg.illegalOpcodePolicy = .report →
      exec (.illegal op) s = .fault (.illegalOpcode op (s.cpu.pc - 1) (s.setPc (s.cpu.pc - 1)))) ∧
    (s.cfg.illegalOpcodePolicy = .nop →
      exec (.illegal op) s =
        .next { s with host := { s.host with outcome := .illegalAsNop op (s.cpu.pc - 1) } }) ∧
    (op ∈ illegalOpcodes → (fetchByte s).1 = op →
      (s.cfg.illegalOpcodePolicy = .report →
        cpuStep s = .fault (.illegalOpcode op s.cpu.pc ((memRead s.cpu.pc s).2.setPc s.cpu.pc)) ∧
        (s.cfg.bus = .reference → ppuRegAt s.cpu.pc = none → cpuStep s = .fault (.illegalOpcode op s.cpu.pc s))) ∧
      (s.cfg.illegalOpcodePolicy = .nop →
        cpuStep s =
          .next (((memRead s.cpu.pc s).2.setPc (s.cpu.pc + 1)).setOutcome (.illegalAsNop op s.cpu.pc))))

/-- R97, R240: every legal instruction runs to completion in every state, and reaches nothing but the CPU's
registers, the bus's two pending slots and what is behind BUS. -/
def Obligations.LegalInstructionsComplete : Prop :=
  ∀ (i : Instr) (s : State), (∀ op, i ≠ .illegal op) → ∃ t, exec i s = .next t ∧ CpuOnly s t

/-! ## Interrupts and reset (60, 70) -/

/-- R225 to R227: the call `cpu_nmi` enters whatever P.I holds, with the outcome Ok; `cpu_irq` enters when P.I =
0, with the outcome Ok, and otherwise nothing changes and the outcome is Masked. Both push PC as it is and P
with bit 4 clear. -/
def Obligations.InterruptEntries : Prop :=
  ∀ s : State, s.cfg.standard →
    (∃ t, runCall .cpuNmi s = .next t ∧ Entered s.cpu.pc false 0xFFFA (s.setOutcome .ok) t) ∧
    (s.flag .i = false →
      ∃ t, runCall .cpuIrq s = .next t ∧ Entered s.cpu.pc false 0xFFFE (s.setOutcome .ok) t) ∧
    (s.flag .i = true → runCall .cpuIrq s = .next (s.setOutcome .masked))

/-- R244: the call `cpu_reset` lowers S by 3 without a write, sets I and U, clears B, loads PC from 0xFFFC,
leaves A, X, Y, N, V, D, Z and C, and has the outcome Ok; the two reads of the vector are its only accesses. -/
def Obligations.CpuResetEntry : Prop :=
  ∀ s : State, s.cfg.standard → ∃ t, runCall .cpuReset s = .next t ∧
    t.cpu = { s.cpu with s := s.cpu.s - 3, p := t.cpu.p, pc := (read16 0xFFFC s).1 } ∧
    (∀ f, t.flag f = match f with | .i => true | .u => true | .b => false | f => s.flag f) ∧
    NoStore (s.setOutcome .ok) t ∧ t.bus = (read16 0xFFFC s).2.bus ∧ t.bus.pendingRead = s.bus.pendingRead ∧
    (s.cfg.bus = .reference → t.cpu.pc = s.vectorWord 0xFFFC ∧ NoAccess (s.setOutcome .ok) t)

/-- R230: the boundary decision. A reset outranks NMI, which outranks IRQ; at most one entry is made. A console reset
resets the CPU, the PPU and the bus's latches (R247), and `nmi_pending` is then false (R248). That a served request is
cleared and that a CPU reset leaves `nmi_pending` as it is are the model's, not R230's (log 16, DEDUCED
and DESIGN CHOICE). -/
def Obligations.BoundaryPriority : Prop :=
  ∀ s : State,
    (s.host.resetRequest = some .cpu →
      boundary s = cpuReset { s with host := { s.host with resetRequest := none } }) ∧
    (s.host.resetRequest = some .console →
      (boundary s).cpu = (cpuReset s).cpu ∧ (boundary s).host.resetRequest = none ∧
        (boundary s).ppu = (ppuReset s).ppu ∧ (boundary s).bus.pendingWrite = none ∧
        (boundary s).bus.pendingRead = none ∧ (boundary s).bus.statusView = 0x00 ∧
        (boundary s).host.nmiPending = false) ∧
    (s.host.resetRequest = none → s.host.nmiPending = true →
      boundary s = cpuNmi { s with host := { s.host with nmiPending := false } }) ∧
    (s.host.resetRequest = none → s.host.nmiPending = false → s.host.irqLine = true → s.flag .i = false →
      boundary s = cpuIrq s) ∧
    (s.host.resetRequest = none → s.host.nmiPending = false → s.host.irqLine = false ∨ s.flag .i = true →
      boundary s = s)

/-- R228: the NMI output is vblank and nmi_enable, and the run loop's nmi_pending is set by a PPU step over
which that level rises, and by nothing else in it. It follows R228's formula; that no second NMI comes of a STATUS read
and a CONTROL write in one vblank, against another sentence of R228, is the model's reading (log 24, DEDUCED). -/
def Obligations.NmiEdge : Prop :=
  ∀ s t : State, runCall .ppuStep s = .next t →
    nmiOutput t = (t.ppu.vblank && t.ppu.control.getLsbD 7) ∧
    (t.host.nmiPending = true ↔
      s.host.nmiPending = true ∨ (nmiOutput s = false ∧ nmiOutput t = true))

/-! ## The PPU's latch services (48) -/

/-- R187 to R193, R197: what the service of each register write and read but DATA's does. A STATUS read resets
both toggles without touching hi or lo and clears the three flags; the cursor wraps from 255 to 0; a STATUS
write and the other reads do nothing. -/
def Obligations.PpuServices : Prop :=
  ∀ (v : Byte) (s : State),
    let toggle := fun (l : ToggleLatch) =>
      (⟨if l.expectHi = true then v else l.hi, if l.expectHi = true then l.lo else v, !l.expectHi⟩ : ToggleLatch)
    serviceWrite .control v s = .ok { s with ppu := { s.ppu with control := v } } ∧
    serviceWrite .mask v s = .ok { s with ppu := { s.ppu with mask := v } } ∧
    serviceWrite .status v s = .ok s ∧
    serviceWrite .oamAddr v s = .ok { s with ppu := { s.ppu with oamAddr := v } } ∧
    serviceWrite .scroll v s = .ok { s with ppu := { s.ppu with scroll := toggle s.ppu.scroll } } ∧
    serviceWrite .address v s = .ok { s with ppu := { s.ppu with addr := toggle s.ppu.addr } } ∧
    (∃ t, serviceWrite .oamData v s = .ok t ∧
      t = { s with ppu := { s.ppu with oam := t.ppu.oam, oamAddr := BitVec.ofNat 8 ((s.ppu.oamAddr.toNat + 1) % 256) } } ∧
      ∀ i, t.ppu.oam.read i = if i = s.ppu.oamAddr.toNat then v else s.ppu.oam.read i) ∧
    serviceRead .status s =
      .ok { s with
        ppu :=
          { s.ppu with
            scroll := { s.ppu.scroll with expectHi := true }
            addr := { s.ppu.addr with expectHi := true }
            vblank := false, spr0Hit := false, sprOverflow := false } } ∧
    ∀ r, r ≠ .status → r ≠ .data → serviceRead r s = .ok s

/-- R182, R194 to R196: a DATA access below 0x3F00 is one load or store of chr space there, one in 0x3F00..0x3FFF
reads or stores the palette byte its offset maps to, and one from 0x4000 on raises PpuFatal; after an access the
address has moved by 1 or 32 modulo 2^16 and its toggle is as it was; nothing else changes. The reference chr space is
memory; another one does to a load and a store what it does (R60). -/
def Obligations.DataAccess : Prop :=
  ∀ (v : Byte) (s : State), s.cfg.standard →
    let a := s.ppu.addr.value
    let moved := fun (t : State) =>
      t.ppu.addr.value = a + (if s.ppu.control.getLsbD 2 = true then 32 else 1) ∧
        t.ppu.addr.expectHi = s.ppu.addr.expectHi
    let l := chrRead a.toNat s
    (a.toNat < 0x3F00 →
      (∃ t, serviceWrite .data v s = .ok t ∧ moved t ∧
        t = { chrWrite a.toNat v s with ppu := { s.ppu with addr := t.ppu.addr } }) ∧
      (∃ t, serviceRead .data s = .ok t ∧ moved t ∧
        t = { l.2 with bus := { l.2.bus with staged := l.1 }, ppu := { s.ppu with addr := t.ppu.addr } })) ∧
    (0x3F00 ≤ a.toNat → a.toNat < 0x4000 →
      (∃ t, serviceWrite .data v s = .ok t ∧ moved t ∧
        t = { s with ppu := { s.ppu with palette := t.ppu.palette, addr := t.ppu.addr } } ∧
        ∀ i, palRead i t.ppu = if palIndex i = palIndex (a.setWidth 5) then v else palRead i s.ppu) ∧
      (∃ t, serviceRead .data s = .ok t ∧ moved t ∧
        t = { s with
          bus := { s.bus with staged := palRead (a.setWidth 5) s.ppu }
          ppu := { s.ppu with addr := t.ppu.addr } })) ∧
    (0x4000 ≤ a.toNat → serviceWrite .data v s = .error a ∧ serviceRead .data s = .error a) ∧
    ∀ b : Nat,
      (s.cfg.chr = .reference →
        chrRead b s = (s.bus.chr.read b, s) ∧
        chrWrite b v s = { s with bus := { s.bus with chr := (chrWrite b v s).bus.chr } } ∧
        ∀ c, (chrWrite b v s).bus.chr.read c = if c = b then v else s.bus.chr.read c) ∧
      ∀ k, s.cfg.chr = .other k →
        chrRead b s =
          ((Config.chrLoad k s.bus.ext b).1,
           { s with bus := { s.bus with ext := (Config.chrLoad k s.bus.ext b).2 } }) ∧
        chrWrite b v s = { s with bus := { s.bus with ext := Config.chrStore k s.bus.ext b v } }

/-- R180, R181, R199: a PPU step fails only as PpuFatal(a), with a at or above 0x4000 and a DATA access pending, and
what it leaves is the state before the step, so that the same step fails so again; it does fail so when the address is
there; and it completes where no DATA access is pending, or one is and the address is below 0x4000. -/
def Obligations.PpuFatalOutcome : Prop :=
  ∀ s : State, s.cfg.standard →
    (∀ v, s.bus.pendingWrite = some (v, .data) → 0x4000 ≤ s.ppu.addr.value.toNat →
      ppuStep s = .fault (.ppuFatal s.ppu.addr.value s)) ∧
    (s.bus.pendingWrite = none → s.bus.pendingRead = some .data → 0x4000 ≤ s.ppu.addr.value.toNat →
      ppuStep s = .fault (.ppuFatal s.ppu.addr.value s)) ∧
    (∀ e, ppuStep s = .fault e →
      ((∃ v, s.bus.pendingWrite = some (v, .data)) ∨ s.bus.pendingRead = some .data) ∧
        ∃ a : Word, e = .ppuFatal a s ∧ 0x4000 ≤ a.toNat) ∧
    (∀ e, ppuStep s ≠ .refused e) ∧
    ((∀ v, s.bus.pendingWrite ≠ some (v, .data)) → s.bus.pendingRead ≠ some .data → ∃ t, ppuStep s = .next t) ∧
    (∀ v, s.bus.pendingWrite = some (v, .data) → s.bus.pendingRead ≠ some .data → s.ppu.addr.value.toNat < 0x4000 →
      ∃ t, ppuStep s = .next t) ∧
    (s.bus.pendingWrite = none → s.bus.pendingRead = some .data → s.ppu.addr.value.toNat < 0x4000 →
      ∃ t, ppuStep s = .next t)

/-- R201: from any latch state, a STATUS read, a write of h and a write of l to ADDRESS, each serviced by its
own PPU step, compose the address (h << 8) | l; the same holds of SCROLL. -/
def Obligations.ToggleLaw : Prop :=
  ∀ (h l : Byte) (s : State), (∀ v, s.bus.pendingWrite ≠ some (v, .data)) →
    (∃ s1 s2 s3, ppuStep (memRead 0x2002 s).2 = .next s1 ∧ ppuStep (memWrite 0x2006 h s1) = .next s2 ∧
      ppuStep (memWrite 0x2006 l s2) = .next s3 ∧ s3.ppu.addr.value = mkWord h l) ∧
    (∃ s1 s2 s3, ppuStep (memRead 0x2002 s).2 = .next s1 ∧ ppuStep (memWrite 0x2005 h s1) = .next s2 ∧
      ppuStep (memWrite 0x2005 l s2) = .next s3 ∧ s3.ppu.scroll.hi = h ∧ s3.ppu.scroll.lo = l)

/-- R58, R202: in the palette window a store is seen by a load exactly where the mirroring maps both to one
byte: at 0x3F10 and 0x3F00, not at 0x3F05 and 0x3F15. -/
def Obligations.PaletteMirroring : Prop :=
  (∀ i : BitVec 5, palIndex i =
    if i = 0x10 then 0x00 else if i = 0x14 then 0x04 else if i = 0x18 then 0x08 else if i = 0x1C then 0x0C else i) ∧
  ∀ (v : Byte) (s : State), s.cfg.standard →
    (∀ a b : Word, 0x3F00 ≤ a.toNat → a.toNat < 0x4000 → 0x3F00 ≤ b.toNat → b.toNat < 0x4000 →
      ∃ t w, ppuStore a v s = .ok t ∧ ppuLoad b s = .ok (w, s) ∧
        ppuLoad b t = .ok (if palIndex (b.setWidth 5) = palIndex (a.setWidth 5) then v else w, t)) ∧
    (∃ t, ppuStore 0x3F10 v s = .ok t ∧ ppuLoad 0x3F00 t = .ok (v, t)) ∧
    (∃ t, ppuStore 0x3F00 v s = .ok t ∧ ppuLoad 0x3F10 t = .ok (v, t)) ∧
    (∃ t w, ppuStore 0x3F05 v s = .ok t ∧ ppuLoad 0x3F15 s = .ok (w, s) ∧ ppuLoad 0x3F15 t = .ok (w, t))

/-- R198: `oam_dma` puts 256 bytes into OAM from the cursor on, modulo 256, leaves the cursor and everything
else, and has the effect on OAM of 256 OAM_DATA writes. -/
def Obligations.OamDmaPort : Prop :=
  ∀ (bytes : Vector Byte 256) (s : State),
    oamDma bytes s = { s with ppu := { s.ppu with oam := (oamDma bytes s).ppu.oam } } ∧
    (∀ (i : Nat) (h : i < 256), (oamDma bytes s).ppu.oam.read ((s.ppu.oamAddr.toNat + i) % 256) = bytes[i]) ∧
    bytes.toList.foldl (fun p v => p.oamDataWrite v) s.ppu = (oamDma bytes s).ppu

/-- R179, R184 to R186, R200, R240: a PPU step that completes has serviced the pending write, if there was one, with
its slot emptied, then the pending read, if there was one, with its slot emptied, and then ticked and published the
status byte; it has left the CPU's registers, CPU memory and the run loop as they were. -/
def Obligations.PpuStepPublishes : Prop :=
  ∀ s t : State, ppuStep s = .next t →
    (∃ s1 s2, services s = .ok s2 ∧
      (match s.bus.pendingWrite with
        | none => s1 = s
        | some (v, r) => serviceWrite r v { s with bus := { s.bus with pendingWrite := none } } = .ok s1) ∧
      (match s.bus.pendingRead with
        | none => s2 = s1
        | some r => serviceRead r { s1 with bus := { s1.bus with pendingRead := none } } = .ok s2) ∧
      t = { tick s2 with bus := { (tick s2).bus with statusView := t.bus.statusView } }) ∧
    t.bus.pendingWrite = none ∧ t.bus.pendingRead = none ∧
    t.bus.statusView.getLsbD 7 = t.ppu.vblank ∧ t.bus.statusView.getLsbD 6 = t.ppu.spr0Hit ∧
    t.bus.statusView.getLsbD 5 = t.ppu.sprOverflow ∧ t.bus.statusView &&& 0x1F = 0 ∧
    t.cpu = s.cpu ∧ (∀ a, t.peek a = s.peek a) ∧ t.host = s.host ∧ t.cfg = s.cfg

/-! ## Timing and rendering (49) -/

/-- R205 to R208: at (241, 1) vblank is set; at (261, 1) the three flags are cleared; elsewhere only a STATUS
read clears vblank; the surface is presented at (240, 0) and nowhere else; the position advances by one and
wraps after 341 * 262 cycles, counting the frame and flipping its parity. -/
def Obligations.PositionEvents : Prop :=
  ∀ s t : State, s.cfg.standard → s.ppu.timingOk s.cfg → ppuStep s = .next t →
    let pos := (s.ppu.scanline, s.ppu.dot)
    (t.ppu.vblank = true ↔
      pos = (241, 1) ∨ (pos ≠ (261, 1) ∧ s.ppu.vblank = true ∧ s.bus.pendingRead ≠ some .status)) ∧
    (pos = (261, 1) → t.ppu.spr0Hit = false ∧ t.ppu.sprOverflow = false) ∧
    (.present ∈ t.surface ↔ pos = (240, 0)) ∧
    t.ppu.cycle = (s.ppu.cycle + 1) % 89342 ∧
    t.ppu.scanline = t.ppu.cycle / 341 ∧ t.ppu.dot = t.ppu.cycle % 341 ∧
    t.ppu.frames = (if s.ppu.cycle = 89341 then (s.ppu.frames + 1) % 2 ^ 32 else s.ppu.frames) ∧
    t.ppu.oddFrame = (if s.ppu.cycle = 89341 then !s.ppu.oddFrame else s.ppu.oddFrame)

/-- R204, R209: with the rendering bits as the step's own services left them, a step at dot 0 of a scanline 0..239
with rendering enabled evaluates that scanline's sprites; a step at dots 1..256 of one emits the pixel at x = dot - 1
and y = scanline, and only that; every other step keeps secondary OAM, and no other step emits a pixel. The colour is
the one `emitPixel` gives (R219), of 6 bits. -/
def Obligations.PixelSchedule : Prop :=
  ∀ s t : State, s.cfg.standard → ppuStep s = .next t →
    ∃ u, services s = .ok u ∧
      let y := s.ppu.scanline
      let dot := s.ppu.dot
      let shown := u.ppu.renderingEnabled = true ∧ y < 240
      let emitted := emitPixel (dot - 1) y { u with surface := [] }
      (shown → dot = 0 →
        t.ppu.secondary = (evaluateSprites y u.ppu).secondary ∧
        t.ppu.spr0OnLine = (evaluateSprites y u.ppu).spr0OnLine ∧
        t.ppu.sprOverflow = (evaluateSprites y u.ppu).sprOverflow) ∧
      (¬(shown ∧ dot = 0) → t.ppu.secondary = s.ppu.secondary ∧ t.ppu.spr0OnLine = s.ppu.spr0OnLine) ∧
      (shown → 1 ≤ dot → dot ≤ 256 →
        t.surface = emitted.surface ∧ t.ppu.tileReg = emitted.ppu.tileReg ∧ t.ppu.spr0Hit = emitted.ppu.spr0Hit ∧
        t.bus.ext = emitted.bus.ext ∧ ∃ c : Byte, c.toNat < 64 ∧ t.surface = [.setPixel (dot - 1) y c]) ∧
      (¬(shown ∧ 1 ≤ dot ∧ dot ≤ 256) →
        (∀ x' y' c, .setPixel x' y' c ∉ t.surface) ∧ t.ppu.tileReg = s.ppu.tileReg ∧ t.bus.ext = u.bus.ext)

/-- R211 to R214: evaluation copies, in OAM order, the first 8 sprites whose rows cover the scanline, fills the
other records with 0xFF, sets overflow when there is a 9th, notes whether record 0 is sprite 0, and changes
nothing else. -/
def Obligations.SpriteEvaluation : Prop :=
  ∀ (scanline : Nat) (p : Ppu),
    let height : Int := if p.control.getLsbD 5 = true then 16 else 8
    let covers := fun (i : Nat) =>
      decide (0 ≤ (scanline : Int) - 1 - ((p.oam.read (4 * i)).toNat : Int) ∧
        (scanline : Int) - 1 - ((p.oam.read (4 * i)).toNat : Int) < height)
    let found := (List.range 64).filter covers
    let q := evaluateSprites scanline p
    (∀ (n : Nat) (h : n < 8), q.secondary[n] =
      match found[n]? with
      | none => ⟨0xFF, 0xFF, 0xFF, 0xFF⟩
      | some i => ⟨p.oam.read (4 * i), p.oam.read (4 * i + 1), p.oam.read (4 * i + 2), p.oam.read (4 * i + 3)⟩) ∧
    (q.spr0OnLine = true ↔ covers 0 = true) ∧
    (q.sprOverflow = true ↔ p.sprOverflow = true ∨ 8 < found.length) ∧
    q = { p with secondary := q.secondary, spr0OnLine := q.spr0OnLine, sprOverflow := q.sprOverflow }

/-- R216, R217, for every scroll and every starting nametable: the place in the 512 x 480 world, the nametable it is in,
its tile, its attribute quadrant and its two pattern planes, read in that order; plane 0 is the tile register's high
byte and the pixel's low bit. A background that is off or clipped gives 0 and reads nothing. -/
def Obligations.BackgroundPixel : Prop :=
  ∀ (x y : Nat) (s : State),
    let wx := (x + s.ppu.scroll.hi.toNat + (if s.ppu.control.getLsbD 0 = true then 256 else 0)) % 512
    let wy := (y + s.ppu.scroll.lo.toNat + (if s.ppu.control.getLsbD 1 = true then 240 else 0)) % 480
    let table := 0x2000 + 0x400 * (2 * (wy / 240) + wx / 256)
    let px := wx % 256
    let py := wy % 240
    let tile := chrRead (table + 32 * (py / 8) + px / 8) s
    let attr := chrRead (table + 0x3C0 + 8 * (py / 32) + px / 32) tile.2
    let pal := attr.1.toNat / 4 ^ (2 * (py / 16 % 2) + px / 16 % 2) % 4
    let row := (if s.ppu.control.getLsbD 4 = true then 0x1000 else 0) + 16 * tile.1.toNat + py % 8
    let lo := chrRead row attr.2
    let hi := chrRead (row + 8) lo.2
    let bits := (if lo.1.getLsbD (7 - px % 8) = true then 1 else 0) +
      (if hi.1.getLsbD (7 - px % 8) = true then 2 else 0)
    (s.ppu.mask.getLsbD 3 = true → (x < 8 → s.ppu.mask.getLsbD 1 = true) →
      bgPixel x y s =
        (if bits = 0 then 0 else 4 * pal + bits,
         { hi.2 with ppu := { s.ppu with tileReg := mkWord lo.1 hi.1 } })) ∧
    (s.ppu.mask.getLsbD 3 = false ∨ (x < 8 ∧ s.ppu.mask.getLsbD 1 = false) → bgPixel x y s = (0, s))

/-- R218, for every record: the column and the row, both flips, the pattern address in both sprite sizes, and the two
planes, read in that order, wherever that address is one (on a scanline the record covers, R211, it always is). A
record with Y = 0xFF or with x outside its 8 columns gives no pixel and reads nothing. An address below 0, which only a
record staged for another scanline or sprite height can have, is not spoken of (log 13). That `/` and `mod` of a
negative row in 8x16 mode, which again only such a record can have, round down is the model's choice and not R218's
words (log 23, DESIGN CHOICE). -/
def Obligations.SpriteRecordPixel : Prop :=
  ∀ (x y n : Nat) (r : SpriteRecord) (s : State),
    let sx := r.x.toNat
    let sy := r.y.toNat
    let big := s.ppu.control.getLsbD 5
    let height : Nat := if big = true then 16 else 8
    let col := if r.attr.getLsbD 6 = true then 7 - (x - sx) else x - sx
    let row : Int := if r.attr.getLsbD 7 = true then height - 1 - ((y : Int) - 1 - sy) else (y : Int) - 1 - sy
    let tile := r.tile.toNat
    let pa : Int :=
      if big = true then 0x1000 * ((tile % 2 : Nat) : Int) + 16 * (((tile / 2 * 2 : Nat) : Int) + row / 8) + row % 8
      else (if s.ppu.control.getLsbD 3 = true then 0x1000 else 0) + 16 * (tile : Int) + row
    let lo := chrRead pa.toNat s
    let hi := chrRead (pa + 8).toNat lo.2
    let px := (if lo.1.getLsbD (7 - col) = true then 1 else 0) + (if hi.1.getLsbD (7 - col) = true then 2 else 0)
    (r.y = 0xFF ∨ x < sx ∨ sx + 8 ≤ x → recordPixel n r x y s = (none, s)) ∧
    (sy + 1 ≤ y → y < sy + 1 + height → 0 ≤ pa) ∧
    (r.y ≠ 0xFF → sx ≤ x → x < sx + 8 → 0 ≤ pa →
      recordPixel n r x y s =
        (if px = 0 then none
         else some ⟨16 + 4 * (r.attr.toNat % 4) + px, r.attr.getLsbD 5, decide (n = 0 ∧ s.ppu.spr0OnLine = true)⟩,
         hi.2))

/-- R218 to R221: with sprites shown and x not clipped, the records are looked at in order, each in the state the reads
of those before it leave, and the first that gives an opaque pixel is the sprite pixel; there is none if no record
gives one, and none, without a read, where sprites are off or clipped. The multiplexer shows the sprite where the
background is transparent or the sprite is in front; a sprite-0 hit needs both layers opaque at x, x other than 255,
both layers enabled and, for x < 8, both left-edge bits; the tile register is the background pixel's; an emitted pixel
writes nothing else but the surface. -/
def Obligations.PixelOutput : Prop :=
  ∀ (x y : Nat) (s : State),
    let b := bgPixel x y s
    let sp := sprPixel x y b.2
    let t := emitPixel x y s
    let record := fun (k : Nat) => s.ppu.secondary.toList.getD k SpriteRecord.empty
    let upTo := fun (n : Nat) => (List.range n).foldl (fun u k => (recordPixel k (record k) x y u).2) b.2
    let gives := fun (k : Nat) => (recordPixel k (record k) x y (upTo k)).1
    let shown := s.ppu.mask.getLsbD 4 = true ∧ (x < 8 → s.ppu.mask.getLsbD 2 = true)
    let hit := ∃ px, sp.1 = some px ∧ px.is0 = true ∧ b.1 ≠ 0 ∧ x ≠ 255
    let offset := match sp.1 with
      | none => b.1
      | some px => if b.1 = 0 ∨ px.behind = false then px.offset else b.1
    (¬shown → sp = (none, b.2)) ∧
    (shown → ∀ n px, n < 8 → gives n = some px → (∀ k, k < n → gives k = none) → sp = (some px, upTo (n + 1))) ∧
    (shown → (∀ k, k < 8 → gives k = none) → sp = (none, upTo 8)) ∧
    t.surface = s.surface ++ [.setPixel x y
      (palRead (BitVec.ofNat 5 offset) s.ppu &&& (if s.ppu.mask.getLsbD 0 = true then 0x30 else 0x3F))] ∧
    (t.ppu.spr0Hit = true ↔ s.ppu.spr0Hit = true ∨ hit) ∧
    (hit → s.ppu.mask.getLsbD 3 = true ∧ s.ppu.mask.getLsbD 4 = true ∧ s.ppu.spr0OnLine = true ∧
      (x < 8 → s.ppu.mask.getLsbD 1 = true ∧ s.ppu.mask.getLsbD 2 = true)) ∧
    t.ppu = { s.ppu with tileReg := b.2.ppu.tileReg, spr0Hit := t.ppu.spr0Hit } ∧
    t.bus = { s.bus with ext := sp.2.bus.ext } ∧ t.cpu = s.cpu ∧ t.host = s.host ∧ t.cfg = s.cfg

/-- R210: after FRAME_CYCLES PPU steps that all complete, the cycle counter is what it was, the frame counter
has grown by one and the parity has flipped, whatever the CPU left pending and whatever is rendered. -/
def Obligations.FrameBudgetLaw : Prop :=
  ∀ s t : State, s.cfg.wf → s.ppu.timingOk s.cfg → ppuRun s.cfg.frameCycles s = .next t →
    t.ppu.cycle = s.ppu.cycle ∧ t.ppu.scanline = s.ppu.scanline ∧ t.ppu.dot = s.ppu.dot ∧
      t.ppu.frames = (s.ppu.frames + 1) % 2 ^ s.cfg.frameCounterWidth ∧ t.ppu.oddFrame = !s.ppu.oddFrame

/-! ## The machine as a whole -/

/-- The invariant of Safety.lean (canonical memories inside their spaces, the counters of R47, R48 and R50, the
stored bits 5 and 4 of P, the published status's low bits) is kept by every step from every state. -/
def Obligations.StepKeepsInvariant : Prop :=
  ∀ s t : State, s.Inv → step s = .next t → t.Inv

/-- The invariant holds right after reset. -/
def Obligations.ResetMeetsInvariant : Prop := State.reset.Inv

/-- R244 to R248: what the resets leave. `ppu_reset` sets every PPU item but OAM and the palette; the bus's reset
empties its slots, and the run loop makes it with every `ppu_reset`, so that no pending latch survives; the CPU's
first reset after power-on gives S = 0xFD; and the reset state holds what the summary of R248 states for it. -/
def Obligations.ResetState : Prop :=
  (∀ s : State,
    ppuReset s =
      { s with
        ppu := { State.reset.ppu with oam := s.ppu.oam, palette := s.ppu.palette }
        bus := { s.bus with statusView := 0x00 } } ∧
    (busReset s).bus = { s.bus with pendingWrite := none, pendingRead := none, statusView := 0x00, staged := (busReset s).bus.staged } ∧
    (∃ t, runCall .ppuReset s = .next t ∧ t.ppu = (ppuReset s).ppu ∧
      t.bus = { s.bus with pendingWrite := none, pendingRead := none, statusView := 0x00, staged := t.bus.staged } ∧
      nmiOutput t = false ∧ t.cpu = s.cpu) ∧
    (s.cfg.standard → (cpuReset (powerOn s)).cpu.s = 0xFD ∧ (cpuReset (powerOn s)).cpu.pc = (read16 0xFFFC s).1 ∧
      (cpuReset (powerOn s)).flag .u = true ∧ (cpuReset (powerOn s)).flag .b = false ∧
      (cpuReset (powerOn s)).flag .i = true)) ∧
  let r := State.reset
  r.cpu.s = 0xFD ∧ r.flag .u = true ∧ r.flag .b = false ∧ r.flag .i = true ∧ r.cpu.pc = r.vectorWord 0xFFFC ∧
  r.ppu.control = 0x00 ∧ r.ppu.mask = 0x00 ∧ r.ppu.vblank = false ∧ r.ppu.spr0Hit = false ∧
  r.ppu.sprOverflow = false ∧ r.ppu.scroll = ⟨0, 0, true⟩ ∧ r.ppu.addr = ⟨0, 0, true⟩ ∧ r.ppu.oamAddr = 0x00 ∧
  (∀ (n : Nat) (h : n < 8), r.ppu.secondary[n] = ⟨0xFF, 0xFF, 0xFF, 0xFF⟩) ∧ r.ppu.spr0OnLine = false ∧
  r.ppu.tileReg = 0x0000 ∧ r.ppu.cycle = 0 ∧ r.ppu.scanline = 0 ∧ r.ppu.dot = 0 ∧ r.ppu.oddFrame = false ∧
  r.ppu.frames = 0 ∧ r.bus.pendingWrite = none ∧ r.bus.pendingRead = none ∧ r.bus.statusView = 0x00 ∧
  r.host.nmiPending = false ∧ nmiOutput r = false

/-- R223, R224: a step fails only with IllegalOpcode, at an opcode of R87 under Report, or with PpuFatal, and what each
leaves is what R96 and R181 say, with the call taken off the list. That a step is refused only for an ill-formed
configuration is 93 U9 and log 7, and that no step changes the configuration or the schedule flag is log 7: the model's
own form of the parameters, not words of R224. -/
def Obligations.StepFailures : Prop :=
  ∀ s : State,
    let start := s.dropCall.setOutcome .ok
    (∀ e, step s = .fault e →
      (∃ op, e = .illegalOpcode op s.cpu.pc ((fetchByte start).2.setPc s.cpu.pc) ∧ (fetchByte start).1 = op ∧
        op ∈ illegalOpcodes ∧ s.cfg.illegalOpcodePolicy = .report ∧ s.nextCall = .cpuStep) ∨
      (∃ a : Word, e = .ppuFatal a start ∧ s.cfg.ppuSpaceSize ≤ a.toNat ∧ s.nextCall = .ppuStep)) ∧
    (∀ e, step s = .refused e → e = .illFormedConfig ∧ ¬s.cfg.wf) ∧
    (∀ t, step s = .next t → t.cfg = s.cfg ∧ t.host.schedule = s.host.schedule)

/-- R251, R258 (the list of calls is the model's own form of the schedule, log 8): under the conventional
schedule every `cpu_step` and every entry call is followed by a PPU step before any other call, an interrupt
or reset entry by 21 of them and an `oam_dma` by 3 * 513. -/
def Obligations.ConventionalSchedule : Prop :=
  ∀ s t : State, s.host.schedule = .conventional → step s = .next t →
    (s.nextCall.entersCpu s = true → t.nextCall = .ppuStep) ∧
    (s.nextCall = .cpuNmi ∨ s.nextCall = .cpuReset ∨ (s.nextCall = .cpuIrq ∧ s.flag .i = false) ∨
        (s.nextCall = .boundary ∧ boundaryEntry s ≠ none) →
      t.host.calls = List.replicate 21 .ppuStep ++ s.host.calls.tail) ∧
    (∀ bytes, s.nextCall = .oamDma bytes → t.host.calls = List.replicate (3 * 513) .ppuStep ++ s.host.calls.tail) ∧
    (s.nextCall = .ppuStep → t.host.calls = s.host.calls.tail)

end
end

