-- ==== Sys2Proof/Laws/Flags.lean ====
section
/-! SUPPORT. Reading a flag after writing one (10_state R26: "no two flags share a bit"). -/

namespace Sys2Proof.Machine

/-- A written flag reads back; every other flag keeps its value (R27). -/
theorem getFlag_putFlag (p : Byte) (f g : Flag) (v : Bool) :
    getFlag (putFlag p f v) g = if g = f then v else getFlag p g := by
  cases f <;> cases g <;> cases v <;> simp [getFlag, putFlag, Flag.bit]

@[simp] theorem getFlag_putFlag_same (p : Byte) (f : Flag) (v : Bool) : getFlag (putFlag p f v) f = v := by
  simp [getFlag_putFlag]

/-- P is its eight flags. -/
theorem eq_of_getFlag (p q : Byte) (h : ∀ f, getFlag p f = getFlag q f) : p = q := by
  have hn := h .n; have hv := h .v; have hu := h .u; have hb := h .b
  have hd := h .d; have hi := h .i; have hz := h .z; have hc := h .c
  simp only [getFlag, Flag.bit] at *
  apply BitVec.eq_of_getLsbD_eq
  intro i hlt
  have : i = 0 ∨ i = 1 ∨ i = 2 ∨ i = 3 ∨ i = 4 ∨ i = 5 ∨ i = 6 ∨ i = 7 := by omega
  rcases this with rfl | rfl | rfl | rfl | rfl | rfl | rfl | rfl <;> assumption

/-- `SetZN(r)` flag by flag (40_dispatch R107). -/
theorem State.flag_setZN (s : State) (r : Byte) (f : Flag) :
    (s.setZN r).flag f = match f with
      | .z => r == 0
      | .n => r.getLsbD 7
      | f => s.flag f := by
  cases f <;> simp [State.setZN, State.flag, State.setFlag, getFlag_putFlag]

/-- `SetPFromPulled` flag by flag (40_dispatch R112). -/
theorem getFlag_pulledP (v : Byte) (f : Flag) :
    getFlag (pulledP v) f = match f with
      | .u => true
      | .b => false
      | f => getFlag v f := by
  cases f <;> simp [getFlag, pulledP, Flag.bit]

/-- `PushedP(b)` flag by flag (40_dispatch R112). -/
theorem getFlag_pushedP (p : Byte) (b : Bool) (f : Flag) :
    getFlag (pushedP p b) f = match f with
      | .u => true
      | .b => b
      | f => getFlag p f := by
  cases f <;> simp [pushedP, getFlag_putFlag] <;> simp [getFlag, Flag.bit]

end Sys2Proof.Machine
end

