-- ==== Sys2Proof/Laws/State.lean ====
section
/-! SUPPORT. What each named update of State leaves in each field, so that no proof unfolds a record
update. -/

namespace Sys2Proof.Machine

variable (s : State)

@[simp] theorem State.setA_cpu_a (v : Byte) : (s.setA v).cpu.a = v := rfl
@[simp] theorem State.setA_cpu_x (v : Byte) : (s.setA v).cpu.x = s.cpu.x := rfl
@[simp] theorem State.setA_cpu_y (v : Byte) : (s.setA v).cpu.y = s.cpu.y := rfl
@[simp] theorem State.setA_cpu_s (v : Byte) : (s.setA v).cpu.s = s.cpu.s := rfl
@[simp] theorem State.setA_cpu_p (v : Byte) : (s.setA v).cpu.p = s.cpu.p := rfl
@[simp] theorem State.setA_cpu_pc (v : Byte) : (s.setA v).cpu.pc = s.cpu.pc := rfl
@[simp] theorem State.setA_host (v : Byte) : (s.setA v).host = s.host := rfl
@[simp] theorem State.setA_ppu (v : Byte) : (s.setA v).ppu = s.ppu := rfl
@[simp] theorem State.setA_bus (v : Byte) : (s.setA v).bus = s.bus := rfl
@[simp] theorem State.setA_surface (v : Byte) : (s.setA v).surface = s.surface := rfl
@[simp] theorem State.setA_cfg (v : Byte) : (s.setA v).cfg = s.cfg := rfl
@[simp] theorem State.setA_draws (v : Byte) : (s.setA v).draws = s.draws := rfl

@[simp] theorem State.setX_cpu_a (v : Byte) : (s.setX v).cpu.a = s.cpu.a := rfl
@[simp] theorem State.setX_cpu_x (v : Byte) : (s.setX v).cpu.x = v := rfl
@[simp] theorem State.setX_cpu_y (v : Byte) : (s.setX v).cpu.y = s.cpu.y := rfl
@[simp] theorem State.setX_cpu_s (v : Byte) : (s.setX v).cpu.s = s.cpu.s := rfl
@[simp] theorem State.setX_cpu_p (v : Byte) : (s.setX v).cpu.p = s.cpu.p := rfl
@[simp] theorem State.setX_cpu_pc (v : Byte) : (s.setX v).cpu.pc = s.cpu.pc := rfl
@[simp] theorem State.setX_host (v : Byte) : (s.setX v).host = s.host := rfl
@[simp] theorem State.setX_ppu (v : Byte) : (s.setX v).ppu = s.ppu := rfl
@[simp] theorem State.setX_bus (v : Byte) : (s.setX v).bus = s.bus := rfl
@[simp] theorem State.setX_surface (v : Byte) : (s.setX v).surface = s.surface := rfl
@[simp] theorem State.setX_cfg (v : Byte) : (s.setX v).cfg = s.cfg := rfl
@[simp] theorem State.setX_draws (v : Byte) : (s.setX v).draws = s.draws := rfl

@[simp] theorem State.setY_cpu_a (v : Byte) : (s.setY v).cpu.a = s.cpu.a := rfl
@[simp] theorem State.setY_cpu_x (v : Byte) : (s.setY v).cpu.x = s.cpu.x := rfl
@[simp] theorem State.setY_cpu_y (v : Byte) : (s.setY v).cpu.y = v := rfl
@[simp] theorem State.setY_cpu_s (v : Byte) : (s.setY v).cpu.s = s.cpu.s := rfl
@[simp] theorem State.setY_cpu_p (v : Byte) : (s.setY v).cpu.p = s.cpu.p := rfl
@[simp] theorem State.setY_cpu_pc (v : Byte) : (s.setY v).cpu.pc = s.cpu.pc := rfl
@[simp] theorem State.setY_host (v : Byte) : (s.setY v).host = s.host := rfl
@[simp] theorem State.setY_ppu (v : Byte) : (s.setY v).ppu = s.ppu := rfl
@[simp] theorem State.setY_bus (v : Byte) : (s.setY v).bus = s.bus := rfl
@[simp] theorem State.setY_surface (v : Byte) : (s.setY v).surface = s.surface := rfl
@[simp] theorem State.setY_cfg (v : Byte) : (s.setY v).cfg = s.cfg := rfl
@[simp] theorem State.setY_draws (v : Byte) : (s.setY v).draws = s.draws := rfl

@[simp] theorem State.setS_cpu_a (v : Byte) : (s.setS v).cpu.a = s.cpu.a := rfl
@[simp] theorem State.setS_cpu_x (v : Byte) : (s.setS v).cpu.x = s.cpu.x := rfl
@[simp] theorem State.setS_cpu_y (v : Byte) : (s.setS v).cpu.y = s.cpu.y := rfl
@[simp] theorem State.setS_cpu_s (v : Byte) : (s.setS v).cpu.s = v := rfl
@[simp] theorem State.setS_cpu_p (v : Byte) : (s.setS v).cpu.p = s.cpu.p := rfl
@[simp] theorem State.setS_cpu_pc (v : Byte) : (s.setS v).cpu.pc = s.cpu.pc := rfl
@[simp] theorem State.setS_host (v : Byte) : (s.setS v).host = s.host := rfl
@[simp] theorem State.setS_ppu (v : Byte) : (s.setS v).ppu = s.ppu := rfl
@[simp] theorem State.setS_bus (v : Byte) : (s.setS v).bus = s.bus := rfl
@[simp] theorem State.setS_surface (v : Byte) : (s.setS v).surface = s.surface := rfl
@[simp] theorem State.setS_cfg (v : Byte) : (s.setS v).cfg = s.cfg := rfl
@[simp] theorem State.setS_draws (v : Byte) : (s.setS v).draws = s.draws := rfl

@[simp] theorem State.setP_cpu_a (v : Byte) : (s.setP v).cpu.a = s.cpu.a := rfl
@[simp] theorem State.setP_cpu_x (v : Byte) : (s.setP v).cpu.x = s.cpu.x := rfl
@[simp] theorem State.setP_cpu_y (v : Byte) : (s.setP v).cpu.y = s.cpu.y := rfl
@[simp] theorem State.setP_cpu_s (v : Byte) : (s.setP v).cpu.s = s.cpu.s := rfl
@[simp] theorem State.setP_cpu_p (v : Byte) : (s.setP v).cpu.p = v := rfl
@[simp] theorem State.setP_cpu_pc (v : Byte) : (s.setP v).cpu.pc = s.cpu.pc := rfl
@[simp] theorem State.setP_host (v : Byte) : (s.setP v).host = s.host := rfl
@[simp] theorem State.setP_ppu (v : Byte) : (s.setP v).ppu = s.ppu := rfl
@[simp] theorem State.setP_bus (v : Byte) : (s.setP v).bus = s.bus := rfl
@[simp] theorem State.setP_surface (v : Byte) : (s.setP v).surface = s.surface := rfl
@[simp] theorem State.setP_cfg (v : Byte) : (s.setP v).cfg = s.cfg := rfl
@[simp] theorem State.setP_draws (v : Byte) : (s.setP v).draws = s.draws := rfl

@[simp] theorem State.setPc_cpu_a (w : Word) : (s.setPc w).cpu.a = s.cpu.a := rfl
@[simp] theorem State.setPc_cpu_x (w : Word) : (s.setPc w).cpu.x = s.cpu.x := rfl
@[simp] theorem State.setPc_cpu_y (w : Word) : (s.setPc w).cpu.y = s.cpu.y := rfl
@[simp] theorem State.setPc_cpu_s (w : Word) : (s.setPc w).cpu.s = s.cpu.s := rfl
@[simp] theorem State.setPc_cpu_p (w : Word) : (s.setPc w).cpu.p = s.cpu.p := rfl
@[simp] theorem State.setPc_cpu_pc (w : Word) : (s.setPc w).cpu.pc = w := rfl
@[simp] theorem State.setPc_host (w : Word) : (s.setPc w).host = s.host := rfl
@[simp] theorem State.setPc_ppu (w : Word) : (s.setPc w).ppu = s.ppu := rfl
@[simp] theorem State.setPc_bus (w : Word) : (s.setPc w).bus = s.bus := rfl
@[simp] theorem State.setPc_surface (w : Word) : (s.setPc w).surface = s.surface := rfl
@[simp] theorem State.setPc_cfg (w : Word) : (s.setPc w).cfg = s.cfg := rfl
@[simp] theorem State.setPc_draws (w : Word) : (s.setPc w).draws = s.draws := rfl

@[simp] theorem State.setFlag_cpu_a (f : Flag) (v : Bool) : (s.setFlag f v).cpu.a = s.cpu.a := rfl
@[simp] theorem State.setFlag_cpu_x (f : Flag) (v : Bool) : (s.setFlag f v).cpu.x = s.cpu.x := rfl
@[simp] theorem State.setFlag_cpu_y (f : Flag) (v : Bool) : (s.setFlag f v).cpu.y = s.cpu.y := rfl
@[simp] theorem State.setFlag_cpu_s (f : Flag) (v : Bool) : (s.setFlag f v).cpu.s = s.cpu.s := rfl
@[simp] theorem State.setFlag_cpu_p (f : Flag) (v : Bool) : (s.setFlag f v).cpu.p = putFlag s.cpu.p f v := rfl
@[simp] theorem State.setFlag_cpu_pc (f : Flag) (v : Bool) : (s.setFlag f v).cpu.pc = s.cpu.pc := rfl
@[simp] theorem State.setFlag_host (f : Flag) (v : Bool) : (s.setFlag f v).host = s.host := rfl
@[simp] theorem State.setFlag_ppu (f : Flag) (v : Bool) : (s.setFlag f v).ppu = s.ppu := rfl
@[simp] theorem State.setFlag_bus (f : Flag) (v : Bool) : (s.setFlag f v).bus = s.bus := rfl
@[simp] theorem State.setFlag_surface (f : Flag) (v : Bool) : (s.setFlag f v).surface = s.surface := rfl
@[simp] theorem State.setFlag_cfg (f : Flag) (v : Bool) : (s.setFlag f v).cfg = s.cfg := rfl
@[simp] theorem State.setFlag_draws (f : Flag) (v : Bool) : (s.setFlag f v).draws = s.draws := rfl

@[simp] theorem State.nextDraw_cpu : (s.nextDraw).cpu = s.cpu := rfl
@[simp] theorem State.nextDraw_host : (s.nextDraw).host = s.host := rfl
@[simp] theorem State.nextDraw_ppu : (s.nextDraw).ppu = s.ppu := rfl
@[simp] theorem State.nextDraw_bus : (s.nextDraw).bus = s.bus := rfl
@[simp] theorem State.nextDraw_surface : (s.nextDraw).surface = s.surface := rfl
@[simp] theorem State.nextDraw_cfg : (s.nextDraw).cfg = s.cfg := rfl
@[simp] theorem State.nextDraw_draws : (s.nextDraw).draws = s.draws + 1 := rfl

@[simp] theorem State.setExt_cpu (e : List Nat) : (s.setExt e).cpu = s.cpu := rfl
@[simp] theorem State.setExt_ppu (e : List Nat) : (s.setExt e).ppu = s.ppu := rfl
@[simp] theorem State.setExt_bus_mem (e : List Nat) : (s.setExt e).bus.mem = s.bus.mem := rfl
@[simp] theorem State.setExt_bus_chr (e : List Nat) : (s.setExt e).bus.chr = s.bus.chr := rfl
@[simp] theorem State.setExt_bus_pendingWrite (e : List Nat) : (s.setExt e).bus.pendingWrite = s.bus.pendingWrite := rfl
@[simp] theorem State.setExt_bus_pendingRead (e : List Nat) : (s.setExt e).bus.pendingRead = s.bus.pendingRead := rfl
@[simp] theorem State.setExt_bus_staged (e : List Nat) : (s.setExt e).bus.staged = s.bus.staged := rfl
@[simp] theorem State.setExt_bus_statusView (e : List Nat) : (s.setExt e).bus.statusView = s.bus.statusView := rfl
@[simp] theorem State.setExt_bus_ext (e : List Nat) : (s.setExt e).bus.ext = e := rfl
@[simp] theorem State.setExt_surface (e : List Nat) : (s.setExt e).surface = s.surface := rfl
@[simp] theorem State.setExt_host (e : List Nat) : (s.setExt e).host = s.host := rfl
@[simp] theorem State.setExt_cfg (e : List Nat) : (s.setExt e).cfg = s.cfg := rfl
@[simp] theorem State.setExt_draws (e : List Nat) : (s.setExt e).draws = s.draws := rfl

@[simp] theorem State.setOutcome_cpu (o : CallOutcome) : (s.setOutcome o).cpu = s.cpu := rfl
@[simp] theorem State.setOutcome_host_nmiPending (o : CallOutcome) : (s.setOutcome o).host.nmiPending = s.host.nmiPending := rfl
@[simp] theorem State.setOutcome_host_irqLine (o : CallOutcome) : (s.setOutcome o).host.irqLine = s.host.irqLine := rfl
@[simp] theorem State.setOutcome_host_resetRequest (o : CallOutcome) : (s.setOutcome o).host.resetRequest = s.host.resetRequest := rfl
@[simp] theorem State.setOutcome_host_schedule (o : CallOutcome) : (s.setOutcome o).host.schedule = s.host.schedule := rfl
@[simp] theorem State.setOutcome_host_calls (o : CallOutcome) : (s.setOutcome o).host.calls = s.host.calls := rfl
@[simp] theorem State.setOutcome_host_outcome (o : CallOutcome) : (s.setOutcome o).host.outcome = o := rfl
@[simp] theorem State.setOutcome_ppu (o : CallOutcome) : (s.setOutcome o).ppu = s.ppu := rfl
@[simp] theorem State.setOutcome_bus (o : CallOutcome) : (s.setOutcome o).bus = s.bus := rfl
@[simp] theorem State.setOutcome_surface (o : CallOutcome) : (s.setOutcome o).surface = s.surface := rfl
@[simp] theorem State.setOutcome_cfg (o : CallOutcome) : (s.setOutcome o).cfg = s.cfg := rfl
@[simp] theorem State.setOutcome_draws (o : CallOutcome) : (s.setOutcome o).draws = s.draws := rfl

@[simp] theorem State.enqueue_cpu (l : List Call) : (s.enqueue l).cpu = s.cpu := rfl
@[simp] theorem State.enqueue_host_nmiPending (l : List Call) : (s.enqueue l).host.nmiPending = s.host.nmiPending := rfl
@[simp] theorem State.enqueue_host_irqLine (l : List Call) : (s.enqueue l).host.irqLine = s.host.irqLine := rfl
@[simp] theorem State.enqueue_host_resetRequest (l : List Call) : (s.enqueue l).host.resetRequest = s.host.resetRequest := rfl
@[simp] theorem State.enqueue_host_schedule (l : List Call) : (s.enqueue l).host.schedule = s.host.schedule := rfl
@[simp] theorem State.enqueue_host_calls (l : List Call) : (s.enqueue l).host.calls = l ++ s.host.calls := rfl
@[simp] theorem State.enqueue_host_outcome (l : List Call) : (s.enqueue l).host.outcome = s.host.outcome := rfl
@[simp] theorem State.enqueue_ppu (l : List Call) : (s.enqueue l).ppu = s.ppu := rfl
@[simp] theorem State.enqueue_bus (l : List Call) : (s.enqueue l).bus = s.bus := rfl
@[simp] theorem State.enqueue_surface (l : List Call) : (s.enqueue l).surface = s.surface := rfl
@[simp] theorem State.enqueue_cfg (l : List Call) : (s.enqueue l).cfg = s.cfg := rfl
@[simp] theorem State.enqueue_draws (l : List Call) : (s.enqueue l).draws = s.draws := rfl

@[simp] theorem State.dropCall_cpu : (s.dropCall).cpu = s.cpu := rfl
@[simp] theorem State.dropCall_host_nmiPending : (s.dropCall).host.nmiPending = s.host.nmiPending := rfl
@[simp] theorem State.dropCall_host_irqLine : (s.dropCall).host.irqLine = s.host.irqLine := rfl
@[simp] theorem State.dropCall_host_resetRequest : (s.dropCall).host.resetRequest = s.host.resetRequest := rfl
@[simp] theorem State.dropCall_host_schedule : (s.dropCall).host.schedule = s.host.schedule := rfl
@[simp] theorem State.dropCall_host_calls : (s.dropCall).host.calls = s.host.calls.tail := rfl
@[simp] theorem State.dropCall_host_outcome : (s.dropCall).host.outcome = s.host.outcome := rfl
@[simp] theorem State.dropCall_ppu : (s.dropCall).ppu = s.ppu := rfl
@[simp] theorem State.dropCall_bus : (s.dropCall).bus = s.bus := rfl
@[simp] theorem State.dropCall_surface : (s.dropCall).surface = s.surface := rfl
@[simp] theorem State.dropCall_cfg : (s.dropCall).cfg = s.cfg := rfl
@[simp] theorem State.dropCall_draws : (s.dropCall).draws = s.draws := rfl

/-! `setZN` and `compare` write P only. -/

@[simp] theorem State.setZN_cpu_a (r : Byte) : (s.setZN r).cpu.a = s.cpu.a := rfl
@[simp] theorem State.setZN_cpu_x (r : Byte) : (s.setZN r).cpu.x = s.cpu.x := rfl
@[simp] theorem State.setZN_cpu_y (r : Byte) : (s.setZN r).cpu.y = s.cpu.y := rfl
@[simp] theorem State.setZN_cpu_s (r : Byte) : (s.setZN r).cpu.s = s.cpu.s := rfl
@[simp] theorem State.setZN_cpu_pc (r : Byte) : (s.setZN r).cpu.pc = s.cpu.pc := rfl
@[simp] theorem State.setZN_ppu (r : Byte) : (s.setZN r).ppu = s.ppu := rfl
@[simp] theorem State.setZN_bus (r : Byte) : (s.setZN r).bus = s.bus := rfl
@[simp] theorem State.setZN_surface (r : Byte) : (s.setZN r).surface = s.surface := rfl
@[simp] theorem State.setZN_host (r : Byte) : (s.setZN r).host = s.host := rfl
@[simp] theorem State.setZN_cfg (r : Byte) : (s.setZN r).cfg = s.cfg := rfl
@[simp] theorem State.setZN_draws (r : Byte) : (s.setZN r).draws = s.draws := rfl

@[simp] theorem State.compare_cpu_a (r m : Byte) : (s.compare r m).cpu.a = s.cpu.a := rfl
@[simp] theorem State.compare_cpu_x (r m : Byte) : (s.compare r m).cpu.x = s.cpu.x := rfl
@[simp] theorem State.compare_cpu_y (r m : Byte) : (s.compare r m).cpu.y = s.cpu.y := rfl
@[simp] theorem State.compare_cpu_s (r m : Byte) : (s.compare r m).cpu.s = s.cpu.s := rfl
@[simp] theorem State.compare_cpu_pc (r m : Byte) : (s.compare r m).cpu.pc = s.cpu.pc := rfl
@[simp] theorem State.compare_ppu (r m : Byte) : (s.compare r m).ppu = s.ppu := rfl
@[simp] theorem State.compare_bus (r m : Byte) : (s.compare r m).bus = s.bus := rfl
@[simp] theorem State.compare_surface (r m : Byte) : (s.compare r m).surface = s.surface := rfl
@[simp] theorem State.compare_host (r m : Byte) : (s.compare r m).host = s.host := rfl
@[simp] theorem State.compare_cfg (r m : Byte) : (s.compare r m).cfg = s.cfg := rfl
@[simp] theorem State.compare_draws (r m : Byte) : (s.compare r m).draws = s.draws := rfl

/-- Two updates of one register: the later one stands. -/
@[simp] theorem State.setPc_setPc (v w : Word) : (s.setPc v).setPc w = s.setPc w := rfl
@[simp] theorem State.setS_setS (v w : Byte) : (s.setS v).setS w = s.setS w := rfl
@[simp] theorem State.setP_setP (v w : Byte) : (s.setP v).setP w = s.setP w := rfl

/-- What an update leaves of the readers. -/
@[simp] theorem State.peek_setS (v : Byte) (a : Word) : (s.setS v).peek a = s.peek a := rfl
@[simp] theorem State.peek_setP (v : Byte) (a : Word) : (s.setP v).peek a = s.peek a := rfl
@[simp] theorem State.peek_setPc (w a : Word) : (s.setPc w).peek a = s.peek a := rfl
@[simp] theorem State.peek_setFlag (f : Flag) (v : Bool) (a : Word) : (s.setFlag f v).peek a = s.peek a := rfl
@[simp] theorem State.peek_setExt (e : List Nat) (a : Word) : (s.setExt e).peek a = s.peek a := rfl
@[simp] theorem State.stackAddr_setP (v : Byte) : (s.setP v).stackAddr = s.stackAddr := rfl
@[simp] theorem State.stackAddr_setPc (w : Word) : (s.setPc w).stackAddr = s.stackAddr := rfl

end Sys2Proof.Machine
end

