-- ==== Sys2Proof/Laws/Ops.lean ====
section
/-! SUPPORT. What the operations over the bus, the stack and the operands leave: for each one, its effect on
every field, so that no proof unfolds them. -/

namespace Sys2Proof.Machine

/-! ## Reads -/

theorem CpuOnly.refl (s : State) : CpuOnly s s := ⟨rfl, rfl, rfl, rfl, rfl, rfl, rfl⟩

theorem NoStore.refl (s : State) : NoStore s s := ⟨CpuOnly.refl s, fun _ => rfl, rfl⟩

theorem NoAccess.refl (s : State) : NoAccess s s := ⟨NoStore.refl s, rfl, rfl⟩

/-- A read, in every field: it leaves everything but the pending read, another bus's own state (and the model's
draw counter). -/
theorem memRead_readsAt (a : Word) (s : State) : ReadsAt a s s (memRead a s).2 := by
  unfold memRead
  split
  · next h =>
    unfold busLoad
    split
    · next hb => exact ⟨NoStore.refl s, by simp [readRecorded, h], by simp [readExt, h, hb]⟩
    · next k hb =>
      exact ⟨⟨⟨rfl, rfl, rfl, rfl, rfl, rfl, rfl⟩, fun _ => rfl, rfl⟩, by simp [readRecorded, h], by simp [readExt, h, hb]⟩
  · next r h =>
    cases r <;>
      exact ⟨⟨⟨rfl, rfl, rfl, rfl, rfl, rfl, rfl⟩, fun _ => rfl, rfl⟩,
        by simp [readRecorded, h, State.noteRegRead, State.nextDraw],
        by simp [readExt, h, State.noteRegRead, State.nextDraw]⟩

@[simp] theorem memRead_cpu (a : Word) (s : State) : (memRead a s).2.cpu = s.cpu := by
  unfold memRead busLoad; split
  · split <;> rfl
  · next r _ => cases r <;> rfl

@[simp] theorem memRead_mem (a : Word) (s : State) : (memRead a s).2.bus.mem = s.bus.mem := by
  unfold memRead busLoad; split
  · split <;> rfl
  · next r _ => cases r <;> rfl

@[simp] theorem memRead_peek (a b : Word) (s : State) : (memRead a s).2.peek b = s.peek b := by
  simp [State.peek]

@[simp] theorem memRead_flag (a : Word) (s : State) (f : Flag) : (memRead a s).2.flag f = s.flag f := by
  simp [State.flag]

@[simp] theorem memRead_ppu (a : Word) (s : State) : (memRead a s).2.ppu = s.ppu := (memRead_readsAt a s).ppu
@[simp] theorem memRead_chr (a : Word) (s : State) : (memRead a s).2.bus.chr = s.bus.chr := (memRead_readsAt a s).chr
@[simp] theorem memRead_staged (a : Word) (s : State) : (memRead a s).2.bus.staged = s.bus.staged := (memRead_readsAt a s).staged
@[simp] theorem memRead_statusView (a : Word) (s : State) : (memRead a s).2.bus.statusView = s.bus.statusView := (memRead_readsAt a s).statusView
@[simp] theorem memRead_surface (a : Word) (s : State) : (memRead a s).2.surface = s.surface := (memRead_readsAt a s).surface
@[simp] theorem memRead_host (a : Word) (s : State) : (memRead a s).2.host = s.host := (memRead_readsAt a s).host
@[simp] theorem memRead_cfg (a : Word) (s : State) : (memRead a s).2.cfg = s.cfg := (memRead_readsAt a s).cfg
@[simp] theorem memRead_pendingWrite (a : Word) (s : State) : (memRead a s).2.bus.pendingWrite = s.bus.pendingWrite := (memRead_readsAt a s).pendingWrite

theorem memRead_pendingRead (a : Word) (s : State) : (memRead a s).2.bus.pendingRead = readRecorded a s :=
  (memRead_readsAt a s).pendingRead

theorem memRead_ext (a : Word) (s : State) : (memRead a s).2.bus.ext = readExt a s := (memRead_readsAt a s).ext

/-- A read of the reference bus's memory has no effect (20_memory R56). -/
theorem memRead_plain (a : Word) (s : State) (hb : s.cfg.bus = .reference) (h : ppuRegAt a = none) :
    memRead a s = (s.peek a, s) := by
  simp [memRead, busLoad, h, hb]

/-- A read does not look at the CPU's registers. -/
theorem memRead_withCpu (a : Word) (s : State) (c : Cpu) :
    memRead a { s with cpu := c } = ((memRead a s).1, { (memRead a s).2 with cpu := c }) := by
  unfold memRead
  split
  · simp only [busLoad]; split <;> rfl
  · next r _ => cases r <;> rfl

/-- A read does not look at the run loop. -/
theorem memRead_withHost (a : Word) (s : State) (l : RunLoop) :
    memRead a { s with host := l } = ((memRead a s).1, { (memRead a s).2 with host := l }) := by
  unfold memRead
  split
  · simp only [busLoad]; split <;> rfl
  · next r _ => cases r <;> rfl

/-- The PPU registers are at 0x2000..0x3FFF only (10_state R36). -/
theorem ppuRegAt_none (a : Word) (h : a.toNat < 0x2000 ∨ 0x3FFF < a.toNat) : ppuRegAt a = none := by
  unfold ppuRegAt
  rw [if_neg (by omega)]

theorem ppuRegAt_isSome (a : Word) (h : 0x2000 ≤ a.toNat ∧ a.toNat ≤ 0x3FFF) : (ppuRegAt a).isSome := by
  unfold ppuRegAt
  rw [if_pos h]
  split <;> rfl

theorem ppuRegAt_eq_none (a : Word) : ppuRegAt a = none ↔ ¬(0x2000 ≤ a.toNat ∧ a.toNat ≤ 0x3FFF) := by
  constructor
  · intro h hr
    have := ppuRegAt_isSome a hr
    rw [h] at this
    exact absurd this (by decide)
  · intro h
    exact ppuRegAt_none a (by omega)

/-- Zero page is plain memory. -/
@[simp] theorem ppuRegAt_zeroPage (a : Byte) : ppuRegAt (a.setWidth 16) = none := by
  apply ppuRegAt_none
  left
  have := a.isLt
  simp only [BitVec.toNat_setWidth]
  omega

/-- The stack page is plain memory. -/
@[simp] theorem ppuRegAt_stackByte (a : Byte) : ppuRegAt (stackByte a) = none := by
  apply ppuRegAt_none
  left
  have h : (stackByte a).toNat < 2 ^ 9 := by
    unfold stackByte
    rw [BitVec.toNat_or]
    apply Nat.or_lt_two_pow
    · decide
    · have := a.isLt
      simp only [BitVec.toNat_setWidth]
      omega
  omega

/-! ## Writes -/

/-- A write, in every field: it leaves everything but the stored byte, another bus's own state or the pending
write. -/
theorem memWrite_storesAt (a : Word) (v : Byte) (s : State) : StoresAt a v s s (memWrite a v s) := by
  unfold memWrite
  split
  · next h =>
    unfold busWrite
    split
    · next hb =>
      refine ⟨⟨rfl, rfl, rfl, rfl, rfl, rfl, rfl⟩, fun b => ?_, by simp [writeRecorded, h], by simp [writeExt, h, hb]⟩
      simp [State.peek, Memory.read_write, h, hb, BitVec.toNat_inj]
    · next k hb =>
      exact ⟨⟨rfl, rfl, rfl, rfl, rfl, rfl, rfl⟩, fun b => by simp [hb], by simp [writeRecorded, h],
        by simp [writeExt, h, hb]⟩
  · next r h =>
    exact ⟨⟨rfl, rfl, rfl, rfl, rfl, rfl, rfl⟩, fun b => by simp [State.peek, h], by simp [writeRecorded, h],
      by simp [writeExt, h]⟩

@[simp] theorem memWrite_cpu (a : Word) (v : Byte) (s : State) : (memWrite a v s).cpu = s.cpu := by
  unfold memWrite busWrite; split
  · split <;> rfl
  · rfl

@[simp] theorem memWrite_flag (a : Word) (v : Byte) (s : State) (f : Flag) : (memWrite a v s).flag f = s.flag f := by
  simp [State.flag]

@[simp] theorem memWrite_ppu (a : Word) (v : Byte) (s : State) : (memWrite a v s).ppu = s.ppu := (memWrite_storesAt a v s).ppu
@[simp] theorem memWrite_chr (a : Word) (v : Byte) (s : State) : (memWrite a v s).bus.chr = s.bus.chr := (memWrite_storesAt a v s).chr
@[simp] theorem memWrite_staged (a : Word) (v : Byte) (s : State) : (memWrite a v s).bus.staged = s.bus.staged := (memWrite_storesAt a v s).staged
@[simp] theorem memWrite_statusView (a : Word) (v : Byte) (s : State) : (memWrite a v s).bus.statusView = s.bus.statusView := (memWrite_storesAt a v s).statusView
@[simp] theorem memWrite_surface (a : Word) (v : Byte) (s : State) : (memWrite a v s).surface = s.surface := (memWrite_storesAt a v s).surface
@[simp] theorem memWrite_host (a : Word) (v : Byte) (s : State) : (memWrite a v s).host = s.host := (memWrite_storesAt a v s).host
@[simp] theorem memWrite_cfg (a : Word) (v : Byte) (s : State) : (memWrite a v s).cfg = s.cfg := (memWrite_storesAt a v s).cfg

@[simp] theorem memWrite_pendingRead (a : Word) (v : Byte) (s : State) :
    (memWrite a v s).bus.pendingRead = s.bus.pendingRead := by
  unfold memWrite busWrite; split
  · split <;> rfl
  · rfl

@[simp] theorem memWrite_draws (a : Word) (v : Byte) (s : State) : (memWrite a v s).draws = s.draws := by
  unfold memWrite busWrite; split
  · split <;> rfl
  · rfl

/-- A write to the reference bus, read back anywhere (20_memory R56). -/
theorem memWrite_peek (a b : Word) (v : Byte) (s : State) :
    (memWrite a v s).peek b = if b = a ∧ ppuRegAt a = none ∧ s.cfg.bus = .reference then v else s.peek b :=
  (memWrite_storesAt a v s).bytes b

theorem memWrite_pendingWrite (a : Word) (v : Byte) (s : State) :
    (memWrite a v s).bus.pendingWrite = writeRecorded a v s := (memWrite_storesAt a v s).pendingWrite

theorem memWrite_ext (a : Word) (v : Byte) (s : State) : (memWrite a v s).bus.ext = writeExt a v s :=
  (memWrite_storesAt a v s).ext

/-- A write does not look at the CPU's registers. -/
theorem memWrite_withCpu (a : Word) (v : Byte) (s : State) (c : Cpu) :
    memWrite a v { s with cpu := c } = { memWrite a v s with cpu := c } := by
  unfold memWrite
  split
  · simp only [busWrite]; split <;> rfl
  · rfl

theorem memWrite_setS (a : Word) (v x : Byte) (s : State) : memWrite a v (s.setS x) = (memWrite a v s).setS x := by
  rw [show s.setS x = { s with cpu := { s.cpu with s := x } } from rfl, memWrite_withCpu, State.setS, memWrite_cpu]

/-! ## Words -/

theorem read16_withCpu (a : Word) (s : State) (c : Cpu) :
    read16 a { s with cpu := c } = ((read16 a s).1, { (read16 a s).2 with cpu := c }) := by
  simp only [read16, memRead_withCpu]

theorem read16_withHost (a : Word) (s : State) (l : RunLoop) :
    read16 a { s with host := l } = ((read16 a s).1, { (read16 a s).2 with host := l }) := by
  simp only [read16, memRead_withHost]

@[simp] theorem read16_cpu (a : Word) (s : State) : (read16 a s).2.cpu = s.cpu := by simp [read16]

/-- Reading a word of the reference bus's memory (00_scope R14). -/
theorem read16_eq (a : Word) (s : State) (hb : s.cfg.bus = .reference) (h : ppuRegAt a = none)
    (h1 : ppuRegAt (a + 1) = none) : read16 a s = (s.vectorWord a, s) := by
  simp only [read16, memRead_plain _ _ hb h, memRead_plain _ _ hb h1, State.vectorWord]

/-- Reading a word stores nothing. -/
theorem read16_noStore (a : Word) (s : State) : NoStore s (read16 a s).2 := by
  refine ⟨⟨?_, ?_, ?_, ?_, ?_, ?_, ?_⟩, fun b => ?_, ?_⟩ <;> simp [read16]

theorem read16_pendingRead (a : Word) (s : State) (h : ppuRegAt a = none) (h1 : ppuRegAt (a + 1) = none) :
    (read16 a s).2.bus.pendingRead = s.bus.pendingRead := by
  simp only [read16, memRead_pendingRead, readRecorded, h, h1]

/-! ## Operands -/

/-- What computing an effective address leaves, on every bus: the pointer reads of izx and izy are in zero page, so
they record nothing, and only another bus's own state can change. -/
structure AddressFrame (s t : State) : Prop extends NoStore s t where
  cpu         : t.cpu = s.cpu
  pendingRead : t.bus.pendingRead = s.bus.pendingRead

theorem AddressFrame.refl (s : State) : AddressFrame s s := ⟨NoStore.refl s, rfl, rfl⟩

theorem readPointer_frame (p : Byte) (s : State) : AddressFrame s (readPointer p s).2 := by
  refine ⟨⟨⟨?_, ?_, ?_, ?_, ?_, ?_, ?_⟩, fun b => ?_, ?_⟩, ?_, ?_⟩ <;>
    simp [readPointer, memRead_pendingRead, readRecorded]

theorem effectiveAddress_frame (m : MemOperand) (s : State) : AddressFrame s (effectiveAddress m s).2 := by
  cases m with
  | zp | zpx | zpy | abs | abx | aby => exact AddressFrame.refl s
  | izx a => exact readPointer_frame _ s
  | izy a => exact readPointer_frame _ s

/-- On the reference bus computing an effective address has no effect. -/
theorem readPointer_eq (p : Byte) (s : State) (hb : s.cfg.bus = .reference) :
    readPointer p s = (mkWord (s.peek ((p + 1).setWidth 16)) (s.peek (p.setWidth 16)), s) := by
  simp [readPointer, memRead_plain _ _ hb (ppuRegAt_zeroPage _)]

theorem effectiveAddress_state (m : MemOperand) (s : State) (hb : s.cfg.bus = .reference) :
    (effectiveAddress m s).2 = s := by
  cases m <;> simp [effectiveAddress, readPointer_eq _ _ hb]

@[simp] theorem effectiveAddress_cpu (m : MemOperand) (s : State) : (effectiveAddress m s).2.cpu = s.cpu :=
  (effectiveAddress_frame m s).cpu

/-- A read at an effective address, seen from the state before the address was computed. -/
theorem ReadsAt.after_address {a : Word} {s u t : State} (h : AddressFrame s u) (k : ReadsAt a u u t) :
    ReadsAt a u s t :=
  ⟨⟨⟨k.ppu.trans h.ppu, k.chr.trans h.chr, k.staged.trans h.staged, k.statusView.trans h.statusView,
     k.surface.trans h.surface, k.host.trans h.host, k.cfg.trans h.cfg⟩,
    fun b => (k.bytes b).trans (h.bytes b), k.pendingWrite.trans h.pendingWrite⟩, k.pendingRead, k.ext⟩

/-- A store after reads that stored nothing, seen from the state before them. -/
theorem StoresAt.after_reads {a : Word} {v : Byte} {s u t : State} (h : NoStore s u) (k : StoresAt a v u u t) :
    StoresAt a v u s t :=
  ⟨⟨k.ppu.trans h.ppu, k.chr.trans h.chr, k.staged.trans h.staged, k.statusView.trans h.statusView,
    k.surface.trans h.surface, k.host.trans h.host, k.cfg.trans h.cfg⟩,
   fun b => by rw [k.bytes b, h.cfg, h.bytes b], k.pendingWrite, k.ext⟩

/-- What reading an operand leaves (40_dispatch R100). -/
theorem readOperand_frame (o : Operand) (s : State) : OperandRead o s (readOperand o s).2 := by
  cases o with
  | imm v => exact NoAccess.refl s
  | mem m => exact ReadsAt.after_address (effectiveAddress_frame m s) (memRead_readsAt _ _)

/-- What a store leaves (40_dispatch R101). -/
theorem store_frame (m : MemOperand) (v : Byte) (s : State) :
    StoresAt (effectiveAddress m s).1 v (effectiveAddress m s).2 s (store m v s) ∧
      (store m v s).bus.pendingRead = s.bus.pendingRead :=
  ⟨StoresAt.after_reads (effectiveAddress_frame m s).toNoStore (memWrite_storesAt _ _ _),
   by simp [store, (effectiveAddress_frame m s).pendingRead]⟩

/-- What a read-modify-write leaves (40_dispatch R102). -/
theorem modify_frame (m : MemOperand) (f : Byte → Byte) (s : State) :
    StoresAt (effectiveAddress m s).1 (f (readMem m s).1) (readMem m s).2 s (modify m f s).2 ∧
      (modify m f s).2.bus.pendingRead = readRecorded (effectiveAddress m s).1 s := by
  have h : ReadsAt (effectiveAddress m s).1 (effectiveAddress m s).2 s (readMem m s).2 :=
    ReadsAt.after_address (effectiveAddress_frame m s) (memRead_readsAt _ _)
  refine ⟨StoresAt.after_reads h.toNoStore (memWrite_storesAt _ _ _), ?_⟩
  show (memWrite _ _ (readMem m s).2).bus.pendingRead = _
  rw [memWrite_pendingRead, h.pendingRead]
  simp [readRecorded, (effectiveAddress_frame m s).pendingRead]

@[simp] theorem readOperand_cpu (o : Operand) (s : State) : (readOperand o s).2.cpu = s.cpu := by
  cases o <;> simp [readOperand, readMem]

@[simp] theorem readOperand_flag (o : Operand) (s : State) (f : Flag) : (readOperand o s).2.flag f = s.flag f := by
  simp [State.flag]

@[simp] theorem readMem_cpu (m : MemOperand) (s : State) : (readMem m s).2.cpu = s.cpu := by simp [readMem]

@[simp] theorem modify_cpu (m : MemOperand) (f : Byte → Byte) (s : State) : (modify m f s).2.cpu = s.cpu := by simp [modify]

@[simp] theorem store_cpu (m : MemOperand) (v : Byte) (s : State) : (store m v s).cpu = s.cpu := by simp [store]

/-! ## Frames after a change of CPU registers -/

theorem CpuOnly.setCpu {s t : State} (h : CpuOnly s t) (c : Cpu) : CpuOnly s { t with cpu := c } :=
  ⟨h.ppu, h.chr, h.staged, h.statusView, h.surface, h.host, h.cfg⟩

theorem NoStore.setCpu {s t : State} (h : NoStore s t) (c : Cpu) : NoStore s { t with cpu := c } :=
  ⟨h.toCpuOnly.setCpu c, h.bytes, h.pendingWrite⟩

theorem NoAccess.setCpu {s t : State} (h : NoAccess s t) (c : Cpu) : NoAccess s { t with cpu := c } :=
  ⟨h.toNoStore.setCpu c, h.pendingRead, h.ext⟩

theorem ReadsAt.setCpu {a : Word} {u s t : State} (h : ReadsAt a u s t) (c : Cpu) : ReadsAt a u s { t with cpu := c } :=
  ⟨h.toNoStore.setCpu c, h.pendingRead, h.ext⟩

theorem StoresAt.setCpu {a : Word} {v : Byte} {u s t : State} (h : StoresAt a v u s t) (c : Cpu) :
    StoresAt a v u s { t with cpu := c } :=
  ⟨h.toCpuOnly.setCpu c, h.bytes, h.pendingWrite, h.ext⟩

theorem OperandRead.setCpu {o : Operand} {s t : State} (h : OperandRead o s t) (c : Cpu) :
    OperandRead o s { t with cpu := c } := by
  cases o with
  | imm v => exact NoAccess.setCpu h c
  | mem m => exact ReadsAt.setCpu h c

theorem CpuOnly.trans {s t u : State} (h : CpuOnly s t) (k : CpuOnly t u) : CpuOnly s u :=
  ⟨k.ppu.trans h.ppu, k.chr.trans h.chr, k.staged.trans h.staged, k.statusView.trans h.statusView,
   k.surface.trans h.surface, k.host.trans h.host, k.cfg.trans h.cfg⟩

theorem NoStore.trans {s t u : State} (h : NoStore s t) (k : NoStore t u) : NoStore s u :=
  ⟨h.toCpuOnly.trans k.toCpuOnly, fun a => (k.bytes a).trans (h.bytes a), k.pendingWrite.trans h.pendingWrite⟩

/-! ## The stack (40_dispatch R103 to R106) -/

theorem standard_stackPage {c : Config} (h : c.standard) : c.stackPage = 0x0100 := by rw [h]

theorem stackAddr_eq (s : State) (h : s.cfg.standard) : s.stackAddr = stackByte s.cpu.s := by
  simp [State.stackAddr, stackByte, standard_stackPage h]

/-- Different values of S name different stack bytes. -/
theorem stackByte_inj (a b : Byte) : stackByte a = stackByte b ↔ a = b := by
  constructor
  · intro h
    have h8 : ∀ x : Byte, (stackByte x).setWidth 8 = x := by
      intro x
      apply BitVec.eq_of_getLsbD_eq
      intro i hi
      simp only [stackByte, BitVec.getLsbD_setWidth, BitVec.getLsbD_or, hi, decide_true, Bool.true_and]
      have : i < 16 := by omega
      have hb : (0x0100#16).getLsbD i = false := by
        have : i = 0 ∨ i = 1 ∨ i = 2 ∨ i = 3 ∨ i = 4 ∨ i = 5 ∨ i = 6 ∨ i = 7 := by omega
        rcases this with rfl | rfl | rfl | rfl | rfl | rfl | rfl | rfl <;> rfl
      simp_all
    rw [← h8 a, ← h8 b, h]
  · rintro rfl; rfl

/-- A push with the stack page at its R10 value (40_dispatch R103). -/
theorem push_eq (b : Byte) (s : State) (h : s.cfg.standard) :
    push b s = (memWrite (stackByte s.cpu.s) b s).setS (s.cpu.s - 1) := by
  simp [push, stackAddr_eq s h]

/-- A pull with the stack page at its R10 value (40_dispatch R104). -/
theorem pull_eq (s : State) (h : s.cfg.standard) :
    pull s = ((memRead (stackByte (s.cpu.s + 1)) s).1, (memRead (stackByte (s.cpu.s + 1)) s).2.setS (s.cpu.s + 1)) := by
  have : (s.setS (s.cpu.s + 1)).stackAddr = stackByte (s.cpu.s + 1) := stackAddr_eq _ h
  unfold pull
  simp only [this]
  rw [show s.setS (s.cpu.s + 1) = { s with cpu := { s.cpu with s := s.cpu.s + 1 } } from rfl, memRead_withCpu,
    State.setS, memRead_cpu]

/-- A pull on the reference bus has no effect but on S. -/
theorem pull_plain (s : State) (h : s.cfg.standard) (hb : s.cfg.bus = .reference) :
    pull s = (s.peek (stackByte (s.cpu.s + 1)), s.setS (s.cpu.s + 1)) := by
  simp only [pull_eq s h, memRead_plain _ _ hb (ppuRegAt_stackByte _)]

@[simp] theorem push_cfg (b : Byte) (s : State) : (push b s).cfg = s.cfg := by simp [push]
@[simp] theorem push_cpu_s (b : Byte) (s : State) : (push b s).cpu.s = s.cpu.s - 1 := by simp [push]

theorem push_cpu (b : Byte) (s : State) : (push b s).cpu = { s.cpu with s := s.cpu.s - 1 } := by
  simp [push, State.setS]

theorem push_cpuOnly (b : Byte) (s : State) : CpuOnly s (push b s) :=
  (memWrite_storesAt _ b s).toCpuOnly.setCpu _

/-- A push on the reference bus stores one byte of the stack page, and leaves every other byte. -/
theorem push_peek (b : Byte) (s : State) (h : s.cfg.standard) (hb : s.cfg.bus = .reference) (a : Word) :
    (push b s).peek a = if a = stackByte s.cpu.s then b else s.peek a := by
  rw [push_eq b s h, State.peek_setS, memWrite_peek]
  simp [hb]

/-- A push records nothing, on every bus. -/
theorem push_pending (b : Byte) (s : State) (h : s.cfg.standard) :
    (push b s).bus.pendingWrite = s.bus.pendingWrite ∧ (push b s).bus.pendingRead = s.bus.pendingRead := by
  rw [push_eq b s h]
  simp [memWrite_pendingWrite, writeRecorded]

theorem add_one_one (x : Byte) : x + 1 + 1 = x + 2 := by rw [BitVec.add_assoc]; rfl

theorem sub_one_one (x : Byte) : x - 1 - 1 = x - 2 := by bv_omega

theorem sub_two_one (x : Byte) : x - 2 - 1 = x - 3 := by bv_omega

/-- Pulling a word reads two bytes of the stack page, low byte first (40_dispatch R105). -/
theorem pullWord_eq (s : State) (h : s.cfg.standard) :
    let lo := memRead (stackByte (s.cpu.s + 1)) s
    let hi := memRead (stackByte (s.cpu.s + 2)) lo.2
    pullWord s = (mkWord hi.1 lo.1, hi.2.setS (s.cpu.s + 2)) := by
  intro lo hi
  have h' : (lo.2.setS (s.cpu.s + 1)).cfg.standard := by simpa [lo] using h
  unfold pullWord
  rw [pull_eq s h]
  dsimp only
  rw [pull_eq _ h', State.setS_cpu_s, add_one_one]
  rw [show (memRead (stackByte (s.cpu.s + 1)) s).2.setS (s.cpu.s + 1) =
    { lo.2 with cpu := { lo.2.cpu with s := s.cpu.s + 1 } } from rfl, memRead_withCpu]
  simp [State.setS, hi, lo]

/-- Pulling a word on the reference bus has no effect but on S. -/
theorem pullWord_plain (s : State) (h : s.cfg.standard) (hb : s.cfg.bus = .reference) :
    pullWord s = (mkWord (s.peek (stackByte (s.cpu.s + 2))) (s.peek (stackByte (s.cpu.s + 1))),
      s.setS (s.cpu.s + 2)) := by
  simp only [pullWord_eq s h, memRead_plain _ _ hb (ppuRegAt_stackByte _)]

/-- Pushing a word is two stores, high byte first, and S two less (40_dispatch R105). -/
theorem pushWord_eq (w : Word) (s : State) (h : s.cfg.standard) :
    pushWord w s =
      (memWrite (stackByte (s.cpu.s - 1)) (loByte w) (memWrite (stackByte s.cpu.s) (hiByte w) s)).setS (s.cpu.s - 2) := by
  unfold pushWord
  rw [push_eq _ _ (by simpa using h), push_eq _ _ h, State.setS_cpu_s, memWrite_setS, State.setS_setS, sub_one_one]

/-- Pushing a word stores two bytes of the stack page, high byte first (40_dispatch R105). -/
theorem pushWord_cpu (w : Word) (s : State) : (pushWord w s).cpu = { s.cpu with s := s.cpu.s - 2 } := by
  unfold pushWord
  rw [push_cpu, push_cpu]
  show { s.cpu with s := s.cpu.s - 1 - 1 } = { s.cpu with s := s.cpu.s - 2 }
  rw [sub_one_one]

@[simp] theorem pushWord_cfg (w : Word) (s : State) : (pushWord w s).cfg = s.cfg := by simp [pushWord]

theorem pushWord_cpuOnly (w : Word) (s : State) : CpuOnly s (pushWord w s) :=
  (push_cpuOnly _ s).trans (push_cpuOnly _ _)

theorem pushWord_peek (w : Word) (s : State) (h : s.cfg.standard) (hb : s.cfg.bus = .reference) (a : Word) :
    (pushWord w s).peek a =
      if a = stackByte (s.cpu.s - 1) then loByte w
      else if a = stackByte s.cpu.s then hiByte w
      else s.peek a := by
  unfold pushWord
  rw [push_peek _ _ (by simpa using h) (by simpa using hb), push_peek _ _ h hb, push_cpu_s]

theorem pushWord_pending (w : Word) (s : State) (h : s.cfg.standard) :
    (pushWord w s).bus.pendingWrite = s.bus.pendingWrite ∧ (pushWord w s).bus.pendingRead = s.bus.pendingRead := by
  have h1 := push_pending (hiByte w) s h
  have h2 := push_pending (loByte w) (push (hiByte w) s) (by simpa using h)
  exact ⟨h2.1.trans h1.1, h2.2.trans h1.2⟩

/-! ## Vectors, taking an exception and returning from one -/

theorem standard_vectorNmi {c : Config} (h : c.standard) : c.vectorNmi = 0xFFFA := by rw [h]
theorem standard_vectorIrq {c : Config} (h : c.standard) : c.vectorIrq = 0xFFFE := by rw [h]
theorem standard_vectorReset {c : Config} (h : c.standard) : c.vectorReset = 0xFFFC := by rw [h]

/-- The byte P is pushed as (40_dispatch R112). -/
theorem pushedP_eq (p : Byte) (b : Bool) : pushedP p b = (p &&& 0xEF) ||| (if b then 0x30 else 0x20) := by
  apply eq_of_getFlag
  intro f
  cases f <;> cases b <;> simp [getFlag_pushedP] <;> simp [getFlag, Flag.bit]

theorem stackByte_toNat (x : Byte) : (stackByte x).toNat < 2 ^ 9 := by
  unfold stackByte
  rw [BitVec.toNat_or]
  apply Nat.or_lt_two_pow
  · decide
  · have := x.isLt
    simp only [BitVec.toNat_setWidth]
    omega

/-- The stores of an entry, field by field. -/
theorem entryStores_cpuOnly (ret : Word) (b : Bool) (s : State) : CpuOnly s (entryStores ret b s) :=
  ((memWrite_storesAt _ _ _).toCpuOnly.trans (memWrite_storesAt _ _ _).toCpuOnly).trans (memWrite_storesAt _ _ _).toCpuOnly

theorem entryStores_pending (ret : Word) (b : Bool) (s : State) :
    (entryStores ret b s).bus.pendingWrite = s.bus.pendingWrite ∧
      (entryStores ret b s).bus.pendingRead = s.bus.pendingRead := by
  simp [entryStores, memWrite_pendingWrite, writeRecorded]

theorem entryStores_peek (ret : Word) (b : Bool) (s : State) (hb : s.cfg.bus = .reference) (a : Word) :
    (entryStores ret b s).peek a =
      if a = stackByte s.cpu.s then hiByte ret
      else if a = stackByte (s.cpu.s - 1) then loByte ret
      else if a = stackByte (s.cpu.s - 2) then (s.cpu.p &&& 0xEF) ||| (if b then 0x30 else 0x20)
      else s.peek a := by
  unfold entryStores
  simp only [memWrite_peek, memWrite_cfg, ppuRegAt_stackByte, hb, and_true]
  by_cases e0 : a = stackByte s.cpu.s
  · subst e0
    have n1 : s.cpu.s ≠ s.cpu.s - 1 := by bv_omega
    have n2 : s.cpu.s ≠ s.cpu.s - 2 := by bv_omega
    simp only [stackByte_inj, if_neg n1, if_neg n2, if_true]
  · by_cases e1 : a = stackByte (s.cpu.s - 1)
    · subst e1
      have n2 : s.cpu.s - 1 ≠ s.cpu.s - 2 := by bv_omega
      have n0 : s.cpu.s - 1 ≠ s.cpu.s := fun e => e0 (by rw [e])
      simp only [stackByte_inj, if_neg n0, if_neg n2, if_true]
    · simp only [if_neg e0, if_neg e1]

/-- What taking an exception does (42_special R116, 60_exceptions R225): the three stores, the two reads of the
vector, and the CPU's registers. -/
theorem takeException_eq (ret : Word) (b : Bool) (vector : Word) (s : State) (h : s.cfg.standard) :
    takeException ret b vector s =
      { (read16 vector (entryStores ret b s)).2 with
        cpu :=
          { s.cpu with
            s := s.cpu.s - 3
            p := putFlag s.cpu.p .i true
            pc := (read16 vector (entryStores ret b s)).1 } } := by
  have hs : push (pushedP (pushWord ret s).cpu.p b) (pushWord ret s) = (entryStores ret b s).setS (s.cpu.s - 3) := by
    rw [push_eq _ _ (by simpa using h), pushWord_cpu, pushWord_eq _ _ h, memWrite_setS, State.setS_setS, sub_two_one,
      pushedP_eq]
    rfl
  unfold takeException
  simp only [hs]
  rw [show ((entryStores ret b s).setS (s.cpu.s - 3)).setFlag .i true =
    { entryStores ret b s with cpu := { s.cpu with s := s.cpu.s - 3, p := putFlag s.cpu.p .i true } } by
      simp [State.setFlag, State.setS, entryStores]]
  rw [read16_withCpu]
  rfl

/-- Taking an exception leaves what `Entered` says (42_special R116, 60_exceptions R225), for a vector past the PPU
window. -/
theorem takeException_entered (ret : Word) (b : Bool) (vector : Word) (s : State) (h : s.cfg.standard)
    (hv : 0x4000 ≤ vector.toNat ∧ vector.toNat < 0xFFFF) :
    Entered ret b vector s (takeException ret b vector s) := by
  have hp0 : ppuRegAt vector = none := ppuRegAt_none _ (by omega)
  have hp1 : ppuRegAt (vector + 1) = none := ppuRegAt_none _ (by right; bv_omega)
  have hfar : ∀ x : Byte, ∀ a : Word, 0x4000 ≤ a.toNat → a ≠ stackByte x := by
    intro x a ha e
    have := stackByte_toNat x
    rw [← e] at this
    omega
  have hw := (entryStores_cpuOnly ret b s).trans (read16_noStore vector (entryStores ret b s)).toCpuOnly
  rw [takeException_eq ret b vector s h]
  refine ⟨hw.setCpu _, rfl, fun f => getFlag_putFlag s.cpu.p .i f true, rfl, ?_, ?_, fun hb => ?_, fun hb a => ?_⟩
  · exact (read16_noStore vector _).pendingWrite.trans (entryStores_pending ret b s).1
  · exact (read16_pendingRead vector _ hp0 hp1).trans (entryStores_pending ret b s).2
  · have hb' : (entryStores ret b s).cfg.bus = .reference := by rw [(entryStores_cpuOnly ret b s).cfg]; exact hb
    have d0 := fun x => hfar x vector (by omega)
    have d1 := fun x => hfar x (vector + 1) (by bv_omega)
    show (read16 vector (entryStores ret b s)).1 = _
    rw [read16_eq _ _ hb' hp0 hp1]
    simp only [State.vectorWord, entryStores_peek _ _ _ hb, if_neg (d0 _), if_neg (d1 _)]
  · exact ((read16_noStore vector _).bytes a).trans (entryStores_peek ret b s hb a)

/-- What the return does (42_special R117): three reads of the stack page and the CPU's registers. -/
theorem returnFromException_eq (s : State) (h : s.cfg.standard) :
    let p := memRead (stackByte (s.cpu.s + 1)) s
    let lo := memRead (stackByte (s.cpu.s + 2)) p.2
    let hi := memRead (stackByte (s.cpu.s + 3)) lo.2
    returnFromException s =
      { hi.2 with cpu := { s.cpu with s := s.cpu.s + 3, p := pulledP p.1, pc := mkWord hi.1 lo.1 } } := by
  intro p lo hi
  have e2 : s.cpu.s + 1 + 1 = s.cpu.s + 2 := by bv_omega
  have e3 : s.cpu.s + 1 + 2 = s.cpu.s + 3 := by bv_omega
  have hu : (p.2.setS (s.cpu.s + 1)).setP (pulledP p.1) =
      { p.2 with cpu := { s.cpu with s := s.cpu.s + 1, p := pulledP p.1 } } := by
    simp [State.setP, State.setS, p]
  have h' : ({ p.2 with cpu := { s.cpu with s := s.cpu.s + 1, p := pulledP p.1 } } : State).cfg.standard := by
    simpa [p] using h
  unfold returnFromException
  rw [pull_eq s h]
  dsimp only
  rw [hu, pullWord_eq _ h']
  dsimp only
  rw [e2, e3]
  simp only [memRead_withCpu]
  rfl

/-- The return on the reference bus. -/
theorem returnFromException_plain (s : State) (h : s.cfg.standard) (hb : s.cfg.bus = .reference) :
    returnFromException s =
      { s with cpu :=
          { s.cpu with
            s := s.cpu.s + 3
            p := pulledP (s.peek (stackByte (s.cpu.s + 1)))
            pc := mkWord (s.peek (stackByte (s.cpu.s + 3))) (s.peek (stackByte (s.cpu.s + 2))) } } := by
  simp only [returnFromException_eq s h, memRead_plain _ _ hb (ppuRegAt_stackByte _)]

/-! ## The entries -/

/-- The CPU's reset (70_reset R244): two reads, and the CPU's registers. -/
theorem cpuReset_eq (s : State) (h : s.cfg.standard) :
    cpuReset s =
      { (read16 0xFFFC s).2 with
        cpu :=
          { s.cpu with
            s := s.cpu.s - 3
            p := putFlag (putFlag (putFlag s.cpu.p .i true) .u true) .b false
            pc := (read16 0xFFFC s).1 } } := by
  have hv : ((((s.setS (s.cpu.s - 3)).setFlag .i true).setFlag .u true).setFlag .b false).cfg.vectorReset = 0xFFFC :=
    standard_vectorReset h
  unfold cpuReset
  simp only [hv]
  rw [show (((s.setS (s.cpu.s - 3)).setFlag .i true).setFlag .u true).setFlag .b false =
    { s with cpu := { s.cpu with s := s.cpu.s - 3, p := putFlag (putFlag (putFlag s.cpu.p .i true) .u true) .b false } }
    from rfl, read16_withCpu]
  rfl

/-- The CPU's reset does not look at the run loop. -/
theorem cpuReset_withHost (s : State) (l : RunLoop) :
    cpuReset { s with host := l } = { cpuReset s with host := l } := by
  have e := read16_withHost s.cfg.vectorReset
    ((((s.setS (s.cpu.s - 3)).setFlag .i true).setFlag .u true).setFlag .b false) l
  unfold cpuReset
  dsimp only
  show (read16 s.cfg.vectorReset { ((((s.setS (s.cpu.s - 3)).setFlag .i true).setFlag .u true).setFlag .b false) with host := l }).2.setPc
    (read16 s.cfg.vectorReset { ((((s.setS (s.cpu.s - 3)).setFlag .i true).setFlag .u true).setFlag .b false) with host := l }).1 = _
  rw [e]
  rfl

/-! ## Fetching does not look at the run loop -/

theorem fetchByte_withHost (s : State) (l : RunLoop) :
    fetchByte { s with host := l } = ((fetchByte s).1, { (fetchByte s).2 with host := l }) := by
  simp only [fetchByte, memRead_withHost, State.setPc]

theorem fetchBytes_withHost (n : Nat) (s : State) (l : RunLoop) :
    fetchBytes n { s with host := l } = ((fetchBytes n s).1, { (fetchBytes n s).2 with host := l }) := by
  induction n generalizing s with
  | zero => rfl
  | succ n ih => simp only [fetchBytes, fetchByte_withHost, ih]

theorem fetch_withHost (s : State) (l : RunLoop) :
    fetch { s with host := l } = ((fetch s).1, { (fetch s).2 with host := l }) := by
  simp only [fetch, fetchByte_withHost, fetchBytes_withHost]

/-- Nor does the count of cycles. -/
theorem cycles_withHost (i : Instr) (s : State) (l : RunLoop) : cycles i { s with host := l } = cycles i s := by
  have c : ∀ m, crossing m { s with host := l } = crossing m s := by
    intro m; cases m <;> simp only [crossing, readPointer, memRead_withHost]
  have r : ∀ o, readCycles o { s with host := l } = readCycles o s := by
    intro o
    cases o with
    | imm => rfl
    | mem m => simp only [readCycles]; cases m <;> simp only [c]
  have b : ∀ t rel, branchCycles t rel { s with host := l } = branchCycles t rel s := fun _ _ => rfl
  cases i <;> simp only [cycles, r, b] <;> rfl

end Sys2Proof.Machine
end

