-- ==== Sys2Proof/Laws/PerInstr.lean ====
section
/-! SUPPORT. Statements made one instruction at a time: an instruction's encoding has the length R85 gives. -/

namespace Sys2Proof.Laws.EncodeLength

/-- The bytes `encode` gives are as many as the instruction is long (30_encoding R85). -/
def Statement (i : Instr) : Prop := (encode i).length = i.length

theorem operand_bytes (o : Operand) : o.bytes.length = o.mode.operandBytes := by
  cases o with
  | imm v => rfl
  | mem m => cases m <;> rfl

theorem memOperand_bytes (m : MemOperand) : m.bytes.length = m.mode.operandBytes := by
  cases m <;> rfl

theorem jmpAbs (target : Word) : Statement (.jmpAbs target) := rfl

theorem jmpInd (ptr : Word) : Statement (.jmpInd ptr) := rfl

theorem jsr (target : Word) : Statement (.jsr target) := rfl

theorem brk : Statement .brk := rfl

theorem rti : Statement .rti := rfl

theorem rts : Statement .rts := rfl

theorem bpl (rel : Byte) : Statement (.bpl rel) := rfl

theorem bmi (rel : Byte) : Statement (.bmi rel) := rfl

theorem bvc (rel : Byte) : Statement (.bvc rel) := rfl

theorem bvs (rel : Byte) : Statement (.bvs rel) := rfl

theorem bcc (rel : Byte) : Statement (.bcc rel) := rfl

theorem bcs (rel : Byte) : Statement (.bcs rel) := rfl

theorem bne (rel : Byte) : Statement (.bne rel) := rfl

theorem beq (rel : Byte) : Statement (.beq rel) := rfl

theorem php : Statement .php := rfl

theorem plp : Statement .plp := rfl

theorem pha : Statement .pha := rfl

theorem pla : Statement .pla := rfl

theorem clc : Statement .clc := rfl

theorem sec : Statement .sec := rfl

theorem cli : Statement .cli := rfl

theorem sei : Statement .sei := rfl

theorem clv : Statement .clv := rfl

theorem cld : Statement .cld := rfl

theorem sed : Statement .sed := rfl

theorem tax : Statement .tax := rfl

theorem tay : Statement .tay := rfl

theorem txa : Statement .txa := rfl

theorem tya : Statement .tya := rfl

theorem txs : Statement .txs := rfl

theorem tsx : Statement .tsx := rfl

theorem inx : Statement .inx := rfl

theorem iny : Statement .iny := rfl

theorem dex : Statement .dex := rfl

theorem dey : Statement .dey := rfl

theorem aslA : Statement .aslA := rfl

theorem rolA : Statement .rolA := rfl

theorem lsrA : Statement .lsrA := rfl

theorem rorA : Statement .rorA := rfl

theorem nop : Statement .nop := rfl

theorem ora (o : Operand) : Statement (.ora o) := by
  simp [Statement, encode, Instr.length, Instr.operandBytes, operand_bytes, Nat.add_comm]

theorem and (o : Operand) : Statement (.and o) := by
  simp [Statement, encode, Instr.length, Instr.operandBytes, operand_bytes, Nat.add_comm]

theorem eor (o : Operand) : Statement (.eor o) := by
  simp [Statement, encode, Instr.length, Instr.operandBytes, operand_bytes, Nat.add_comm]

theorem adc (o : Operand) : Statement (.adc o) := by
  simp [Statement, encode, Instr.length, Instr.operandBytes, operand_bytes, Nat.add_comm]

theorem sta (m : MemOperand) : Statement (.sta m) := by
  simp [Statement, encode, Instr.length, Instr.operandBytes, memOperand_bytes, Nat.add_comm]

theorem lda (o : Operand) : Statement (.lda o) := by
  simp [Statement, encode, Instr.length, Instr.operandBytes, operand_bytes, Nat.add_comm]

theorem cmp (o : Operand) : Statement (.cmp o) := by
  simp [Statement, encode, Instr.length, Instr.operandBytes, operand_bytes, Nat.add_comm]

theorem sbc (o : Operand) : Statement (.sbc o) := by
  simp [Statement, encode, Instr.length, Instr.operandBytes, operand_bytes, Nat.add_comm]

theorem asl (m : MemOperand) : Statement (.asl m) := by
  simp [Statement, encode, Instr.length, Instr.operandBytes, memOperand_bytes, Nat.add_comm]

theorem rol (m : MemOperand) : Statement (.rol m) := by
  simp [Statement, encode, Instr.length, Instr.operandBytes, memOperand_bytes, Nat.add_comm]

theorem lsr (m : MemOperand) : Statement (.lsr m) := by
  simp [Statement, encode, Instr.length, Instr.operandBytes, memOperand_bytes, Nat.add_comm]

theorem ror (m : MemOperand) : Statement (.ror m) := by
  simp [Statement, encode, Instr.length, Instr.operandBytes, memOperand_bytes, Nat.add_comm]

theorem stx (m : MemOperand) : Statement (.stx m) := by
  simp [Statement, encode, Instr.length, Instr.operandBytes, memOperand_bytes, Nat.add_comm]

theorem ldx (o : Operand) : Statement (.ldx o) := by
  simp [Statement, encode, Instr.length, Instr.operandBytes, operand_bytes, Nat.add_comm]

theorem dec (m : MemOperand) : Statement (.dec m) := by
  simp [Statement, encode, Instr.length, Instr.operandBytes, memOperand_bytes, Nat.add_comm]

theorem inc (m : MemOperand) : Statement (.inc m) := by
  simp [Statement, encode, Instr.length, Instr.operandBytes, memOperand_bytes, Nat.add_comm]

theorem bit (m : MemOperand) : Statement (.bit m) := by
  simp [Statement, encode, Instr.length, Instr.operandBytes, memOperand_bytes, Nat.add_comm]

theorem sty (m : MemOperand) : Statement (.sty m) := by
  simp [Statement, encode, Instr.length, Instr.operandBytes, memOperand_bytes, Nat.add_comm]

theorem ldy (o : Operand) : Statement (.ldy o) := by
  simp [Statement, encode, Instr.length, Instr.operandBytes, operand_bytes, Nat.add_comm]

theorem cpy (o : Operand) : Statement (.cpy o) := by
  simp [Statement, encode, Instr.length, Instr.operandBytes, operand_bytes, Nat.add_comm]

theorem cpx (o : Operand) : Statement (.cpx o) := by
  simp [Statement, encode, Instr.length, Instr.operandBytes, operand_bytes, Nat.add_comm]

theorem illegal (op : Byte) : Statement (.illegal op) := rfl

end Sys2Proof.Laws.EncodeLength
end

