-- ==== Sys2Proof/Laws/Ppu.lean ====
section
/-! SUPPORT. What the phases of a PPU step can do, said once: services, tick, the whole step. -/

namespace Sys2Proof.Machine

/-- What every phase of a PPU step leaves: the CPU's registers, CPU memory, the run loop and the parameters. -/
structure PpuSide (s t : State) : Prop where
  cpu  : t.cpu = s.cpu
  mem  : t.bus.mem = s.bus.mem
  host : t.host = s.host
  cfg  : t.cfg = s.cfg

theorem PpuSide.refl (s : State) : PpuSide s s := ⟨rfl, rfl, rfl, rfl⟩

theorem PpuSide.trans {s t u : State} (h : PpuSide s t) (k : PpuSide t u) : PpuSide s u :=
  ⟨k.cpu.trans h.cpu, k.mem.trans h.mem, k.host.trans h.host, k.cfg.trans h.cfg⟩

/-- The counters of 10_state R47 to R50, which no service changes (49 R210). -/
structure SameCounters (p q : Ppu) : Prop where
  cycle    : q.cycle = p.cycle
  scanline : q.scanline = p.scanline
  dot      : q.dot = p.dot
  oddFrame : q.oddFrame = p.oddFrame
  frames   : q.frames = p.frames

theorem SameCounters.refl (p : Ppu) : SameCounters p p := ⟨rfl, rfl, rfl, rfl, rfl⟩

theorem SameCounters.trans {p q r : Ppu} (h : SameCounters p q) (k : SameCounters q r) : SameCounters p r :=
  ⟨k.cycle.trans h.cycle, k.scanline.trans h.scanline, k.dot.trans h.dot, k.oddFrame.trans h.oddFrame,
   k.frames.trans h.frames⟩

/-- What a service does to the parts of the PPU that rendering writes (49 R221): nothing but the clearing of
the three flags. -/
structure ServiceFrame (s t : State) : Prop extends PpuSide s t where
  counters   : SameCounters s.ppu t.ppu
  secondary  : t.ppu.secondary = s.ppu.secondary
  spr0OnLine : t.ppu.spr0OnLine = s.ppu.spr0OnLine
  tileReg    : t.ppu.tileReg = s.ppu.tileReg
  surface    : t.surface = s.surface
  statusView : t.bus.statusView = s.bus.statusView

theorem ServiceFrame.trans {s t u : State} (h : ServiceFrame s t) (k : ServiceFrame t u) : ServiceFrame s u :=
  ⟨h.toPpuSide.trans k.toPpuSide, h.counters.trans k.counters, k.secondary.trans h.secondary,
   k.spr0OnLine.trans h.spr0OnLine, k.tileReg.trans h.tileReg, k.surface.trans h.surface,
   k.statusView.trans h.statusView⟩

/-! ## The chr space -/

/-- What chr reads leave: everything but another chr space's own state (and the model's draw counter). -/
abbrev ChrReads (s t : State) : Prop :=
  t = { s with bus := { s.bus with ext := t.bus.ext }, draws := t.draws }

theorem ChrReads.refl (s : State) : ChrReads s s := rfl

theorem ChrReads.trans {s t u : State} (h : ChrReads s t) (k : ChrReads t u) : ChrReads s u := by
  unfold ChrReads at *
  rw [k, h]

theorem ChrReads.withTileReg {s t : State} (h : ChrReads s t) (w : Word) :
    ({ t with ppu := { t.ppu with tileReg := w } } : State) =
      { s with
        ppu := { s.ppu with tileReg := w }
        bus := { s.bus with ext := t.bus.ext }
        draws := t.draws } := by
  unfold ChrReads at h
  rw [h]

theorem chrRead_frame (a : Nat) (s : State) : ChrReads s (chrRead a s).2 := by
  unfold chrRead; split <;> rfl

/-- A read of the reference chr space has no effect (20_memory R56, R60). -/
theorem chrRead_plain (a : Nat) (s : State) (h : s.cfg.chr = .reference) : chrRead a s = (s.bus.chr.read a, s) := by
  simp [chrRead, h]

/-- A chr store leaves everything but the byte, or another chr space's own state. -/
theorem chrWrite_frame (a : Nat) (v : Byte) (s : State) :
    chrWrite a v s = { s with bus := { s.bus with chr := (chrWrite a v s).bus.chr, ext := (chrWrite a v s).bus.ext } } := by
  unfold chrWrite; split <;> rfl

theorem ppuLoad_frame (a : Word) (s : State) (l : Byte × State) (h : ppuLoad a s = .ok l) : ChrReads s l.2 := by
  unfold ppuLoad at h
  split at h
  · exact absurd h (by simp)
  · split at h
    · simp only [Except.ok.injEq] at h; subst h; exact chrRead_frame _ _
    · simp only [Except.ok.injEq] at h; subst h; exact ChrReads.refl s

theorem ppuStore_cases (a : Word) (v : Byte) (s t : State) (h : ppuStore a v s = .ok t) :
    (a.toNat < s.cfg.paletteBase ∧ t = chrWrite a.toNat v s) ∨
    (s.cfg.paletteBase ≤ a.toNat ∧ a.toNat < s.cfg.ppuSpaceSize ∧ t = { s with ppu := palWrite (palOffset a) v s.ppu }) := by
  unfold ppuStore at h
  split at h
  · exact absurd h (by simp)
  · split at h
    · next h1 => exact .inl ⟨h1, by simpa using h.symm⟩
    · next h0 h1 => exact .inr ⟨by omega, by omega, by simpa using h.symm⟩

/-- The services that complete, for a write: what each leaves of the rest of the machine. -/
theorem serviceWrite_frame (r : PpuReg) (v : Byte) (s t : State) (h : serviceWrite r v s = .ok t) :
    ServiceFrame s t ∧ t.bus.pendingWrite = s.bus.pendingWrite ∧ t.bus.pendingRead = s.bus.pendingRead ∧
      t.ppu.vblank = s.ppu.vblank ∧ t.ppu.spr0Hit = s.ppu.spr0Hit ∧ t.ppu.sprOverflow = s.ppu.sprOverflow := by
  cases r with
  | data =>
    simp only [serviceWrite] at h
    split at h
    · exact absurd h (by simp)
    · next t' ht =>
      simp only [Except.ok.injEq] at h
      subst h
      rcases ppuStore_cases _ _ _ _ ht with ⟨_, rfl⟩ | ⟨_, _, rfl⟩
      · rw [chrWrite_frame]
        exact ⟨⟨⟨rfl, rfl, rfl, rfl⟩, ⟨rfl, rfl, rfl, rfl, rfl⟩, rfl, rfl, rfl, rfl, rfl⟩, rfl, rfl, rfl, rfl, rfl⟩
      · exact ⟨⟨⟨rfl, rfl, rfl, rfl⟩, ⟨rfl, rfl, rfl, rfl, rfl⟩, rfl, rfl, rfl, rfl, rfl⟩, rfl, rfl, rfl, rfl, rfl⟩
  | control | mask | status | oamAddr | oamData | scroll | address =>
    simp only [serviceWrite, Except.ok.injEq] at h
    subst h
    exact ⟨⟨⟨rfl, rfl, rfl, rfl⟩, ⟨rfl, rfl, rfl, rfl, rfl⟩, rfl, rfl, rfl, rfl, rfl⟩, rfl, rfl, rfl, rfl, rfl⟩

/-- The services that complete, for a read. Only STATUS's touches the three flags, and it clears them. -/
theorem serviceRead_frame (r : PpuReg) (s t : State) (h : serviceRead r s = .ok t) :
    ServiceFrame s t ∧ t.bus.pendingWrite = s.bus.pendingWrite ∧ t.bus.pendingRead = s.bus.pendingRead ∧
      t.ppu.vblank = (s.ppu.vblank && r != .status) ∧ t.ppu.spr0Hit = (s.ppu.spr0Hit && r != .status) ∧
      t.ppu.sprOverflow = (s.ppu.sprOverflow && r != .status) := by
  cases r with
  | data =>
    simp only [serviceRead] at h
    split at h
    · exact absurd h (by simp)
    · next l hl =>
      simp only [Except.ok.injEq] at h
      subst h
      rw [ppuLoad_frame _ _ _ hl]
      exact ⟨⟨⟨rfl, rfl, rfl, rfl⟩, ⟨rfl, rfl, rfl, rfl, rfl⟩, rfl, rfl, rfl, rfl, rfl⟩, rfl, rfl, by simp [Ppu.increment], by simp [Ppu.increment], by simp [Ppu.increment]⟩
  | status =>
    simp only [serviceRead, Except.ok.injEq] at h
    subst h
    exact ⟨⟨⟨rfl, rfl, rfl, rfl⟩, ⟨rfl, rfl, rfl, rfl, rfl⟩, rfl, rfl, rfl, rfl, rfl⟩, rfl, rfl, by simp [Ppu.statusRead], by simp [Ppu.statusRead], by simp [Ppu.statusRead]⟩
  | control | mask | oamAddr | oamData | scroll | address =>
    simp only [serviceRead, Except.ok.injEq] at h
    subst h
    exact ⟨⟨⟨rfl, rfl, rfl, rfl⟩, ⟨rfl, rfl, rfl, rfl, rfl⟩, rfl, rfl, rfl, rfl, rfl⟩, rfl, rfl, by simp, by simp, by simp⟩

/-- The first phase: the pending write is consumed (48 R184), the rest of the machine framed. -/
theorem takeWrite_frame (s t : State) (h : takeWrite s = .ok t) :
    ServiceFrame s t ∧ t.bus.pendingWrite = none ∧ t.bus.pendingRead = s.bus.pendingRead ∧
      t.ppu.vblank = s.ppu.vblank ∧ t.ppu.spr0Hit = s.ppu.spr0Hit ∧ t.ppu.sprOverflow = s.ppu.sprOverflow := by
  unfold takeWrite at h
  split at h
  · next hn =>
    simp only [Except.ok.injEq] at h
    subst h
    exact ⟨⟨⟨rfl, rfl, rfl, rfl⟩, ⟨rfl, rfl, rfl, rfl, rfl⟩, rfl, rfl, rfl, rfl, rfl⟩, hn, rfl, rfl, rfl, rfl⟩
  · obtain ⟨hf, hw, hr, h1, h2, h3⟩ := serviceWrite_frame _ _ _ _ h
    refine ⟨⟨⟨hf.cpu, hf.mem, hf.host, hf.cfg⟩, hf.counters, hf.secondary, hf.spr0OnLine, hf.tileReg, hf.surface, hf.statusView⟩, hw, hr, h1, h2, h3⟩

/-- The second phase: the pending read is consumed (48 R184), the rest of the machine framed. -/
theorem takeRead_frame (s t : State) (h : takeRead s = .ok t) :
    ServiceFrame s t ∧ t.bus.pendingWrite = s.bus.pendingWrite ∧ t.bus.pendingRead = none ∧
      t.ppu.vblank = (s.ppu.vblank && s.bus.pendingRead != some .status) ∧
      t.ppu.spr0Hit = (s.ppu.spr0Hit && s.bus.pendingRead != some .status) ∧
      t.ppu.sprOverflow = (s.ppu.sprOverflow && s.bus.pendingRead != some .status) := by
  unfold takeRead at h
  split at h
  · next hn =>
    simp only [Except.ok.injEq] at h
    subst h
    exact ⟨⟨⟨rfl, rfl, rfl, rfl⟩, ⟨rfl, rfl, rfl, rfl, rfl⟩, rfl, rfl, rfl, rfl, rfl⟩, rfl, hn, by simp [hn], by simp [hn], by simp [hn]⟩
  · next r hr =>
    obtain ⟨hf, hw, hp, h1, h2, h3⟩ := serviceRead_frame _ _ _ h
    refine ⟨⟨⟨hf.cpu, hf.mem, hf.host, hf.cfg⟩, hf.counters, hf.secondary, hf.spr0OnLine, hf.tileReg, hf.surface, hf.statusView⟩, hw, hp, ?_, ?_, ?_⟩
    · rw [h1, hr]; cases r <;> rfl
    · rw [h2, hr]; cases r <;> rfl
    · rw [h3, hr]; cases r <;> rfl

/-- Both services, completed. -/
theorem services_cases (s t : State) (h : services s = .ok t) :
    ∃ u, takeWrite s = .ok u ∧ takeRead u = .ok t := by
  unfold services at h
  split at h
  · exact absurd h (by simp)
  · next u hu => exact ⟨u, hu, h⟩

/-- Both services: the slots are consumed (48 R184), the rest of the machine framed. -/
theorem services_frame (s t : State) (h : services s = .ok t) :
    ServiceFrame s t ∧ t.bus.pendingWrite = none ∧ t.bus.pendingRead = none := by
  obtain ⟨u, h1, h2⟩ := services_cases s t h
  obtain ⟨f1, w1, -⟩ := takeWrite_frame _ _ h1
  obtain ⟨f2, w2, r2, -⟩ := takeRead_frame _ _ h2
  exact ⟨f1.trans f2, w2.trans w1, r2⟩

/-! ## Evaluation and rendering -/

/-- Evaluation writes secondary OAM, its sprite-0 flag and the overflow flag, and nothing else (49 R221). -/
theorem evaluateFrom_frame (scanline : Nat) (is : List Nat) (n : Nat) (p : Ppu) :
    evaluateFrom scanline is n p =
      { p with
        secondary := (evaluateFrom scanline is n p).secondary
        spr0OnLine := (evaluateFrom scanline is n p).spr0OnLine
        sprOverflow := (evaluateFrom scanline is n p).sprOverflow } := by
  induction is generalizing n p with
  | nil => rfl
  | cons i is ih =>
    unfold evaluateFrom
    split
    · split
      · next hn =>
        exact ih (n + 1) { p with secondary := p.secondary.set n (p.sprite i) hn, spr0OnLine := p.spr0OnLine || i == 0 }
      · rfl
    · exact ih n p

theorem evaluateSprites_frame (scanline : Nat) (p : Ppu) :
    evaluateSprites scanline p =
      { p with
        secondary := (evaluateSprites scanline p).secondary
        spr0OnLine := (evaluateSprites scanline p).spr0OnLine
        sprOverflow := (evaluateSprites scanline p).sprOverflow } :=
  evaluateFrom_frame scanline (List.range 64) 0 (resetSecondaryOam p)

/-- The background pixel writes the tile register, and makes chr reads (49 R221). -/
theorem bgPixel_frame (x y : Nat) (s : State) :
    (bgPixel x y s).2 =
      { s with
        ppu := { s.ppu with tileReg := (bgPixel x y s).2.ppu.tileReg }
        bus := { s.bus with ext := (bgPixel x y s).2.bus.ext }
        draws := (bgPixel x y s).2.draws } := by
  unfold bgPixel
  dsimp only
  split
  · rfl
  · exact ((((chrRead_frame _ s).trans (chrRead_frame _ _)).trans (chrRead_frame _ _)).trans (chrRead_frame _ _)).withTileReg _

theorem patternRead_frame (pa : Int) (s : State) : ChrReads s (patternRead pa s).2 := by
  unfold patternRead
  split
  · exact chrRead_frame _ s
  · rfl

/-- A record's pixel makes chr reads and writes nothing. -/
theorem recordPixel_frame (n : Nat) (r : SpriteRecord) (x y : Nat) (s : State) :
    ChrReads s (recordPixel n r x y s).2 := by
  unfold recordPixel
  dsimp only
  split
  · exact ChrReads.refl s
  · split
    · exact (patternRead_frame _ s).trans (patternRead_frame _ _)
    · exact ChrReads.refl s

theorem firstOpaque_frame (x y : Nat) (rs : List SpriteRecord) (n : Nat) (s : State) :
    ChrReads s (firstOpaque x y rs n s).2 := by
  induction rs generalizing n s with
  | nil => exact ChrReads.refl s
  | cons r rs ih =>
    unfold firstOpaque
    dsimp only
    split
    · exact recordPixel_frame n r x y s
    · exact (recordPixel_frame n r x y s).trans (ih _ _)

/-- The sprite pixel makes chr reads and writes nothing (49 R221). -/
theorem sprPixel_frame (x y : Nat) (s : State) : ChrReads s (sprPixel x y s).2 := by
  unfold sprPixel
  split
  · exact ChrReads.refl s
  · exact firstOpaque_frame x y _ 0 s

/-- An emitted pixel writes the tile register, the hit flag and the surface, and makes chr reads (49 R221). -/
theorem emitPixel_frame (x y : Nat) (s : State) :
    emitPixel x y s =
      { s with
        ppu := { s.ppu with tileReg := (emitPixel x y s).ppu.tileReg, spr0Hit := (emitPixel x y s).ppu.spr0Hit }
        bus := { s.bus with ext := (emitPixel x y s).bus.ext }
        surface := (emitPixel x y s).surface
        draws := (emitPixel x y s).draws } := by
  have hb := bgPixel_frame x y s
  have hs := sprPixel_frame x y (bgPixel x y s).2
  unfold emitPixel
  dsimp only
  generalize (sprPixel x y (bgPixel x y s).2).2 = t at *
  rw [hb] at hs
  rw [hs]

/-- What rendering a position leaves (49 R221): the bus but for another chr space's own state, the CPU, the run loop,
primary OAM, the palette, the registers, the latches, vblank and the counters. -/
structure RenderFrame (s t : State) : Prop where
  cpu      : t.cpu = s.cpu
  bus      : t.bus = { s.bus with ext := t.bus.ext }
  host     : t.host = s.host
  cfg      : t.cfg = s.cfg
  control  : t.ppu.control = s.ppu.control
  mask     : t.ppu.mask = s.ppu.mask
  vblank   : t.ppu.vblank = s.ppu.vblank
  scroll   : t.ppu.scroll = s.ppu.scroll
  addr     : t.ppu.addr = s.ppu.addr
  oamAddr  : t.ppu.oamAddr = s.ppu.oamAddr
  oam      : t.ppu.oam = s.ppu.oam
  palette  : t.ppu.palette = s.ppu.palette
  counters : SameCounters s.ppu t.ppu

theorem RenderFrame.refl (s : State) : RenderFrame s s :=
  ⟨rfl, rfl, rfl, rfl, rfl, rfl, rfl, rfl, rfl, rfl, rfl, rfl, SameCounters.refl _⟩

theorem renderAt_frame (scanline dot : Nat) (s : State) : RenderFrame s (renderAt scanline dot s) := by
  unfold renderAt
  split
  · split
    · have h := evaluateSprites_frame scanline s.ppu
      refine ⟨rfl, rfl, rfl, rfl, ?_, ?_, ?_, ?_, ?_, ?_, ?_, ?_, ⟨?_, ?_, ?_, ?_, ?_⟩⟩ <;> (show _ = _; dsimp only; rw [h])
    · split
      · have h := emitPixel_frame (dot - 1) scanline s
        generalize emitPixel (dot - 1) scanline s = t at *
        rw [h]
        exact ⟨rfl, rfl, rfl, rfl, rfl, rfl, rfl, rfl, rfl, rfl, rfl, rfl, ⟨rfl, rfl, rfl, rfl, rfl⟩⟩
      · exact RenderFrame.refl s
  · exact RenderFrame.refl s

/-- The position events write the three flags and the surface, and nothing else. -/
theorem eventsAt_frame (scanline dot : Nat) (s : State) :
    eventsAt scanline dot s =
      { s with
        ppu :=
          { s.ppu with
            vblank := (eventsAt scanline dot s).ppu.vblank
            spr0Hit := (eventsAt scanline dot s).ppu.spr0Hit
            sprOverflow := (eventsAt scanline dot s).ppu.sprOverflow }
        surface := (eventsAt scanline dot s).surface } := by
  unfold eventsAt
  by_cases h1 : (scanline, dot) = s.cfg.vblankSetPos
  all_goals by_cases h2 : (scanline, dot) = s.cfg.vblankClearPos
  all_goals by_cases h3 : (scanline, dot) = s.cfg.presentPos
  all_goals simp only [h1, h2, h3, if_true, if_false]
  all_goals (repeat' split) <;> rfl

/-- The counters after a step (49 R205), whatever the rest of the PPU. -/
theorem advance_frame (cfg : Config) (p : Ppu) :
    advance cfg p =
      { p with
        cycle := (advance cfg p).cycle, scanline := (advance cfg p).scanline, dot := (advance cfg p).dot
        frames := (advance cfg p).frames, oddFrame := (advance cfg p).oddFrame } := by
  unfold advance
  dsimp only
  split <;> rfl

theorem advance_cycle (cfg : Config) (p : Ppu) :
    (advance cfg p).cycle = if p.cycle = cfg.frameCycles - 1 then 0 else p.cycle + 1 := by
  unfold advance
  dsimp only
  split <;> rfl

theorem advance_scanline (cfg : Config) (p : Ppu) :
    (advance cfg p).scanline = (advance cfg p).cycle / cfg.dotsPerScanline := rfl

theorem advance_dot (cfg : Config) (p : Ppu) :
    (advance cfg p).dot = (advance cfg p).cycle % cfg.dotsPerScanline := rfl

theorem advance_frames (cfg : Config) (p : Ppu) :
    (advance cfg p).frames =
      if p.cycle = cfg.frameCycles - 1 then (p.frames + 1) % 2 ^ cfg.frameCounterWidth else p.frames := by
  unfold advance
  dsimp only
  split <;> rfl

theorem advance_oddFrame (cfg : Config) (p : Ppu) :
    (advance cfg p).oddFrame = if p.cycle = cfg.frameCycles - 1 then !p.oddFrame else p.oddFrame := by
  unfold advance
  dsimp only
  split <;> rfl

theorem advance_rest (cfg : Config) (p : Ppu) :
    (advance cfg p).vblank = p.vblank ∧ (advance cfg p).spr0Hit = p.spr0Hit ∧
      (advance cfg p).sprOverflow = p.sprOverflow ∧ (advance cfg p).secondary = p.secondary ∧
      (advance cfg p).spr0OnLine = p.spr0OnLine ∧ (advance cfg p).mask = p.mask := by
  unfold advance
  dsimp only
  split <;> exact ⟨rfl, rfl, rfl, rfl, rfl, rfl⟩

/-- The events and the rendering of a tick, with the positions at their R10 values (49 R204, R206 to R208). -/
theorem tick_events (s : State) (h : s.cfg.standard) :
    let pos := (s.ppu.scanline, s.ppu.dot)
    let u := renderAt s.ppu.scanline s.ppu.dot { s with surface := [] }
    (tick s).ppu.vblank = (if pos = (241, 1) then true else if pos = (261, 1) then false else s.ppu.vblank) ∧
      (pos = (261, 1) → (tick s).ppu.spr0Hit = false ∧ (tick s).ppu.sprOverflow = false) ∧
      (tick s).surface = u.surface ++ (if pos = (240, 0) then [.present] else []) ∧
      (tick s).ppu.secondary = u.ppu.secondary ∧ (tick s).ppu.spr0OnLine = u.ppu.spr0OnLine ∧
      (tick s).ppu.mask = u.ppu.mask := by
  have hr := renderAt_frame s.ppu.scanline s.ppu.dot { s with surface := [] }
  have hcfg : (renderAt s.ppu.scanline s.ppu.dot { s with surface := [] }).cfg = s.cfg := hr.cfg
  have hv : (renderAt s.ppu.scanline s.ppu.dot { s with surface := [] }).ppu.vblank = s.ppu.vblank := hr.vblank
  unfold tick
  dsimp only
  generalize renderAt s.ppu.scanline s.ppu.dot { s with surface := [] } = u at *
  have c1 : u.cfg.vblankSetPos = (241, 1) := by rw [hcfg, h]
  have c2 : u.cfg.vblankClearPos = (261, 1) := by rw [hcfg, h]
  have c3 : u.cfg.presentPos = (240, 0) := by rw [hcfg, h]
  simp only [advance_rest, eventsAt]
  rw [c1]
  by_cases h1 : (s.ppu.scanline, s.ppu.dot) = (241, 1)
  · have h2 : (s.ppu.scanline, s.ppu.dot) ≠ (261, 1) := by rw [h1]; decide
    have h3 : (s.ppu.scanline, s.ppu.dot) ≠ (240, 0) := by rw [h1]; decide
    simp only [if_pos h1, c2, if_neg h2, c3, if_neg h3]
    refine ⟨by trivial, fun e => absurd e h2, (List.append_nil _).symm, by trivial, by trivial, by trivial⟩
  · simp only [if_neg h1, c2]
    by_cases h2 : (s.ppu.scanline, s.ppu.dot) = (261, 1)
    · have h3 : (s.ppu.scanline, s.ppu.dot) ≠ (240, 0) := by rw [h2]; decide
      simp only [if_pos h2, c3, if_neg h3]
      refine ⟨by trivial, fun _ => ⟨by trivial, by trivial⟩, (List.append_nil _).symm, by trivial, by trivial, by trivial⟩
    · simp only [if_neg h2, c3]
      by_cases h3 : (s.ppu.scanline, s.ppu.dot) = (240, 0)
      · simp only [if_pos h3]
        refine ⟨hv, fun e => absurd e h2, by trivial, by trivial, by trivial, by trivial⟩
      · simp only [if_neg h3]
        refine ⟨hv, fun e => absurd e h2, (List.append_nil _).symm, by trivial, by trivial, by trivial⟩

theorem standard_frameCycles {c : Config} (h : c.standard) : c.frameCycles = 89342 := by
  rw [Config.frameCycles, show c.dotsPerScanline = 341 by rw [h], show c.scanlinesPerFrame = 262 by rw [h]]

/-! ## The step -/

/-- A PPU step that completes is its phases, each completed (48 R179). -/
theorem ppuStep_cases (s t : State) (h : ppuStep s = .next t) :
    ∃ u, services s = .ok u ∧ t = publishStatus (tick u) := by
  unfold ppuStep at h
  split at h
  · exact absurd h (by simp)
  · next u hu => exact ⟨u, hu, by simpa using h.symm⟩

/-- A tick: the rendering and the events of the position, and then the counters. -/
theorem tick_frame (s : State) :
    PpuSide s (tick s) ∧ (tick s).bus = { s.bus with ext := (tick s).bus.ext } ∧
    (tick s).ppu.control = s.ppu.control ∧ (tick s).ppu.mask = s.ppu.mask ∧ (tick s).ppu.scroll = s.ppu.scroll ∧
    (tick s).ppu.addr = s.ppu.addr ∧ (tick s).ppu.oamAddr = s.ppu.oamAddr ∧ (tick s).ppu.oam = s.ppu.oam ∧
    (tick s).ppu.palette = s.ppu.palette ∧ SameCounters (advance s.cfg s.ppu) (tick s).ppu := by
  have hr := renderAt_frame s.ppu.scanline s.ppu.dot { s with surface := [] }
  have he := eventsAt_frame s.ppu.scanline s.ppu.dot (renderAt s.ppu.scanline s.ppu.dot { s with surface := [] })
  have ha := advance_frame (eventsAt s.ppu.scanline s.ppu.dot (renderAt s.ppu.scanline s.ppu.dot { s with surface := [] })).cfg
    (eventsAt s.ppu.scanline s.ppu.dot (renderAt s.ppu.scanline s.ppu.dot { s with surface := [] })).ppu
  unfold tick
  dsimp only
  generalize renderAt s.ppu.scanline s.ppu.dot { s with surface := [] } = u at *
  generalize eventsAt s.ppu.scanline s.ppu.dot u = w at *
  have hcfg : w.cfg = s.cfg := by rw [he]; exact hr.cfg
  have hcpu : w.cpu = s.cpu := by rw [he]; exact hr.cpu
  have hbus : w.bus = { s.bus with ext := w.bus.ext } := by rw [he]; exact hr.bus
  have hhost : w.host = s.host := by rw [he]; exact hr.host
  refine ⟨⟨hcpu, ?_, hhost, hcfg⟩, hbus, ?_, ?_, ?_, ?_, ?_, ?_, ?_, ⟨?_, ?_, ?_, ?_, ?_⟩⟩
  · show w.bus.mem = s.bus.mem; rw [hbus]
  · rw [ha]; show w.ppu.control = _; rw [he]; exact hr.control
  · rw [ha]; show w.ppu.mask = _; rw [he]; exact hr.mask
  · rw [ha]; show w.ppu.scroll = _; rw [he]; exact hr.scroll
  · rw [ha]; show w.ppu.addr = _; rw [he]; exact hr.addr
  · rw [ha]; show w.ppu.oamAddr = _; rw [he]; exact hr.oamAddr
  · rw [ha]; show w.ppu.oam = _; rw [he]; exact hr.oam
  · rw [ha]; show w.ppu.palette = _; rw [he]; exact hr.palette
  all_goals
    have hc : w.ppu.cycle = s.ppu.cycle := by rw [he]; exact hr.counters.cycle
    have hf : w.ppu.frames = s.ppu.frames := by rw [he]; exact hr.counters.frames
    have ho : w.ppu.oddFrame = s.ppu.oddFrame := by rw [he]; exact hr.counters.oddFrame
  · rw [advance_cycle, advance_cycle, hc, hcfg]
  · rw [advance_scanline, advance_scanline, advance_cycle, advance_cycle, hc, hcfg]
  · rw [advance_dot, advance_dot, advance_cycle, advance_cycle, hc, hcfg]
  · rw [advance_oddFrame, advance_oddFrame, hc, ho, hcfg]
  · rw [advance_frames, advance_frames, hc, hf, hcfg]

/-- A PPU step that completes leaves the CPU, CPU memory, the run loop and the parameters, empties both slots,
publishes the status and advances the counters, whatever was pending (48 R179, 49 R210). -/
theorem ppuStep_frame (s t : State) (h : ppuStep s = .next t) :
    PpuSide s t ∧ t.bus.pendingWrite = none ∧ t.bus.pendingRead = none ∧ t.bus.statusView = t.ppu.statusByte ∧
      SameCounters (advance s.cfg s.ppu) t.ppu := by
  obtain ⟨u, hu, rfl⟩ := ppuStep_cases s t h
  obtain ⟨f, w, r⟩ := services_frame s u hu
  obtain ⟨ft, hb, -, -, -, -, -, -, -, hc⟩ := tick_frame u
  have hside := f.toPpuSide.trans ft
  refine ⟨⟨hside.cpu, hside.mem, hside.host, hside.cfg⟩, ?_, ?_, rfl, ?_⟩
  · show (tick u).bus.pendingWrite = none; rw [hb]; exact w
  · show (tick u).bus.pendingRead = none; rw [hb]; exact r
  · have e : SameCounters (advance s.cfg s.ppu) (advance u.cfg u.ppu) := by
      refine ⟨?_, ?_, ?_, ?_, ?_⟩
      · rw [advance_cycle, advance_cycle, f.counters.cycle, f.cfg]
      · rw [advance_scanline, advance_scanline, advance_cycle, advance_cycle, f.counters.cycle, f.cfg]
      · rw [advance_dot, advance_dot, advance_cycle, advance_cycle, f.counters.cycle, f.cfg]
      · rw [advance_oddFrame, advance_oddFrame, f.counters.cycle, f.counters.oddFrame, f.cfg]
      · rw [advance_frames, advance_frames, f.counters.cycle, f.counters.frames, f.cfg]
    exact e.trans hc

/-- With no DATA access pending, a PPU step completes (48 R180, R199). -/
theorem ppuStep_completes (s : State) (hw : ∀ v, s.bus.pendingWrite ≠ some (v, .data))
    (hr : s.bus.pendingRead ≠ some .data) : ∃ t, ppuStep s = .next t := by
  have h1 : ∃ s1, takeWrite s = .ok s1 := by
    unfold takeWrite
    split
    · exact ⟨_, rfl⟩
    · next v r hp =>
      cases r
      case data => exact absurd hp (hw v)
      all_goals exact ⟨_, rfl⟩
  obtain ⟨s1, h1⟩ := h1
  have hr1 := (takeWrite_frame _ _ h1).2.2.1
  have h2 : ∃ s2, takeRead s1 = .ok s2 := by
    unfold takeRead
    split
    · exact ⟨_, rfl⟩
    · next r hp =>
      cases r
      case data => exact absurd (hr1.symm.trans hp) hr
      all_goals exact ⟨_, rfl⟩
  obtain ⟨s2, h2⟩ := h2
  exact ⟨publishStatus (tick s2), by simp [ppuStep, services, h1, h2]⟩

/-- From a state with no DATA access pending, any number of PPU steps completes. -/
theorem ppuRun_completes (n : Nat) (s : State) (hw : ∀ v, s.bus.pendingWrite ≠ some (v, .data))
    (hr : s.bus.pendingRead ≠ some .data) : ∃ t, ppuRun n s = .next t := by
  induction n generalizing s with
  | zero => exact ⟨s, rfl⟩
  | succ n ih =>
    obtain ⟨t, ht⟩ := ppuStep_completes s hw hr
    obtain ⟨-, w, r, -⟩ := ppuStep_frame s t ht
    simp only [ppuRun, ht, andThen]
    exact ih t (by simp [w]) (by simp [r])

/-- All that a reset of the PPU changes: the PPU but OAM and the palette, the bus's latches, and one free value drawn
(70_reset R246, R247). -/
theorem resetPpu_eq (s : State) :
    resetPpu s =
      { s with
        ppu := { State.reset.ppu with oam := s.ppu.oam, palette := s.ppu.palette }
        bus :=
          { s.bus with
            pendingWrite := none, pendingRead := none, statusView := 0x00, staged := Config.freeByte s.draws }
        draws := s.draws + 1 } := rfl

end Sys2Proof.Machine
end

