-- ==== Sys2Proof/Tests/Slice0.lean ====
section
/-! SUPPORT. Tests: each encoding by a word written out from the spec, the well-formedness checks, single steps
with the results of 95_test_vectors, and a witness for the hypotheses of every statement. -/

namespace Sys2Proof.Tests

open Sys2Proof.Machine

/-! ## Helpers -/

/-- A machine with these registers and CPU memory, making no call of its own accord. -/
def machine (c : Cpu) (cells : Memory) : State :=
  { State.reset with
    cpu := c
    bus := { State.reset.bus with mem := cells }
    host := { State.reset.host with calls := [], schedule := .open } }

/-- The same under the other reading of a branch displacement. -/
def machineSignMagnitude (c : Cpu) (cells : Memory) : State :=
  { machine c cells with cfg := { Config.default with branchOffsetMode := .signMagnitude } }

def withPending (w : Option (Byte × PpuReg)) (r : Option PpuReg) (s : State) : State :=
  { s with bus := { s.bus with pendingWrite := w, pendingRead := r } }

def withStatusView (v : Byte) (s : State) : State := { s with bus := { s.bus with statusView := v } }

def withStaged (v : Byte) (s : State) : State := { s with bus := { s.bus with staged := v } }

def withHost (f : RunLoop → RunLoop) (s : State) : State := { s with host := f s.host }

def withPpu (f : Ppu → Ppu) (s : State) : State := { s with ppu := f s.ppu }

/-- The state an outcome holds. -/
def nextOf (o : Host.Outcome State Fault Refusal) : Option State :=
  match o with
  | .next t => some t
  | .fault _ => none
  | .refused _ => none

def cpuAfter (s : State) : Option Cpu := (nextOf (step s)).map (·.cpu)

def byteAfter (s : State) (a : Word) : Option Byte := (nextOf (step s)).map (·.peek a)

def pendingAfter (s : State) : Option (Option (Byte × PpuReg) × Option PpuReg) :=
  (nextOf (step s)).map fun t => (t.bus.pendingWrite, t.bus.pendingRead)

/-! ## WellFormed: for each check, a term it refuses and a term it lets through (30_encoding R84, R87) -/

theorem test_wf_read_refuses_zpy : Instr.wf (.ora (.mem (.zpy 0x10))) = false ∧ Instr.wf (.lda (.imm 0x10)) = true := by decide
theorem test_wf_sta_refuses_zpy : Instr.wf (.sta (.zpy 0x10)) = false ∧ Instr.wf (.sta (.izy 0x10)) = true := by decide
theorem test_wf_modify_refuses_aby : Instr.wf (.asl (.aby 0x0200)) = false ∧ Instr.wf (.dec (.abx 0x0200)) = true := by decide
theorem test_wf_stx_refuses_aby : Instr.wf (.stx (.aby 0x0200)) = false ∧ Instr.wf (.stx (.zpy 0x10)) = true := by decide
theorem test_wf_ldx_refuses_zpx : Instr.wf (.ldx (.mem (.zpx 0x10))) = false ∧ Instr.wf (.ldx (.imm 0x10)) = true := by decide
theorem test_wf_bit_refuses_zpx : Instr.wf (.bit (.zpx 0x10)) = false ∧ Instr.wf (.bit (.abs 0x0200)) = true := by decide
theorem test_wf_sty_refuses_abx : Instr.wf (.sty (.abx 0x0200)) = false ∧ Instr.wf (.sty (.zpx 0x10)) = true := by decide
theorem test_wf_ldy_refuses_izx : Instr.wf (.ldy (.mem (.izx 0x10))) = false ∧ Instr.wf (.ldy (.mem (.abx 0x0200))) = true := by decide
theorem test_wf_cp_refuses_zpx : Instr.wf (.cpx (.mem (.zpx 0x10))) = false ∧ Instr.wf (.cpy (.imm 0x10)) = true := by decide
theorem test_wf_illegal_refuses_nop : Instr.wf (.illegal 0xEA) = false ∧ Instr.wf (.illegal 0x02) = true := by decide

/-! ## Decode: every constructor by a word written from its encoding, family by family -/

/-- 41_jump: the two fixed opcodes, the address low byte first. -/
theorem test_decode_jump :
    decode [0b01001100, 0x34, 0x12] = .ok (.jmpAbs 0x1234, []) ∧
    decode [0b01101100, 0xFF, 0x02] = .ok (.jmpInd 0x02FF, []) := by and_intros <;> rfl

/-- 42_special: 0aa00000; BRK has a signature byte. -/
theorem test_decode_special :
    decode [0b00000000, 0x55] = .ok (.brk, []) ∧ decode [0b00100000, 0x34, 0x12] = .ok (.jsr 0x1234, []) ∧
    decode [0b01000000] = .ok (.rti, []) ∧ decode [0b01100000] = .ok (.rts, []) := by and_intros <;> rfl

/-- 43_branch: xxy10000, the flag and the value it is compared with. -/
theorem test_decode_branch :
    decode [0b00010000, 0x05] = .ok (.bpl 0x05, []) ∧ decode [0b00110000, 0x05] = .ok (.bmi 0x05, []) ∧
    decode [0b01010000, 0x05] = .ok (.bvc 0x05, []) ∧ decode [0b01110000, 0x05] = .ok (.bvs 0x05, []) ∧
    decode [0b10010000, 0x05] = .ok (.bcc 0x05, []) ∧ decode [0b10110000, 0x05] = .ok (.bcs 0x05, []) ∧
    decode [0b11010000, 0x05] = .ok (.bne 0x05, []) ∧ decode [0b11110000, 0x05] = .ok (.beq 0x05, []) := by and_intros <;> rfl

/-- 44_implied: hhhh1000, the high nibble from 0 to F. -/
theorem test_decode_implied_8 :
    decode [0b00001000] = .ok (.php, []) ∧ decode [0b00011000] = .ok (.clc, []) ∧
    decode [0b00101000] = .ok (.plp, []) ∧ decode [0b00111000] = .ok (.sec, []) ∧
    decode [0b01001000] = .ok (.pha, []) ∧ decode [0b01011000] = .ok (.cli, []) ∧
    decode [0b01101000] = .ok (.pla, []) ∧ decode [0b01111000] = .ok (.sei, []) ∧
    decode [0b10001000] = .ok (.dey, []) ∧ decode [0b10011000] = .ok (.tya, []) ∧
    decode [0b10101000] = .ok (.tay, []) ∧ decode [0b10111000] = .ok (.clv, []) ∧
    decode [0b11001000] = .ok (.iny, []) ∧ decode [0b11011000] = .ok (.cld, []) ∧
    decode [0b11101000] = .ok (.inx, []) ∧ decode [0b11111000] = .ok (.sed, []) := by and_intros <;> rfl

/-- 44_implied: hhhh1010. -/
theorem test_decode_implied_A :
    decode [0b00001010] = .ok (.aslA, []) ∧ decode [0b00101010] = .ok (.rolA, []) ∧
    decode [0b01001010] = .ok (.lsrA, []) ∧ decode [0b01101010] = .ok (.rorA, []) ∧
    decode [0b10001010] = .ok (.txa, []) ∧ decode [0b10011010] = .ok (.txs, []) ∧
    decode [0b10101010] = .ok (.tax, []) ∧ decode [0b10111010] = .ok (.tsx, []) ∧
    decode [0b11001010] = .ok (.dex, []) ∧ decode [0b11101010] = .ok (.nop, []) := by and_intros <;> rfl

/-- 45_common_group1: aaabbb01; the eight handlers, over the eight modes. -/
theorem test_decode_group1 :
    decode [0b00000001, 0x20] = .ok (.ora (.mem (.izx 0x20)), []) ∧
    decode [0b00100101, 0x20] = .ok (.and (.mem (.zp 0x20)), []) ∧
    decode [0b01001001, 0x20] = .ok (.eor (.imm 0x20), []) ∧
    decode [0b01101101, 0x34, 0x12] = .ok (.adc (.mem (.abs 0x1234)), []) ∧
    decode [0b10010001, 0x20] = .ok (.sta (.izy 0x20), []) ∧
    decode [0b10110101, 0x20] = .ok (.lda (.mem (.zpx 0x20)), []) ∧
    decode [0b11011001, 0x34, 0x12] = .ok (.cmp (.mem (.aby 0x1234)), []) ∧
    decode [0b11111101, 0x34, 0x12] = .ok (.sbc (.mem (.abx 0x1234)), []) := by and_intros <;> rfl

/-- 46_common_group2: aaabbb10; STX and LDX index by Y. -/
theorem test_decode_group2 :
    decode [0b00000110, 0x20] = .ok (.asl (.zp 0x20), []) ∧
    decode [0b00101110, 0x34, 0x12] = .ok (.rol (.abs 0x1234), []) ∧
    decode [0b01010110, 0x20] = .ok (.lsr (.zpx 0x20), []) ∧
    decode [0b01111110, 0x34, 0x12] = .ok (.ror (.abx 0x1234), []) ∧
    decode [0b10010110, 0x20] = .ok (.stx (.zpy 0x20), []) ∧
    decode [0b10111110, 0x34, 0x12] = .ok (.ldx (.mem (.aby 0x1234)), []) ∧
    decode [0b11000110, 0x20] = .ok (.dec (.zp 0x20), []) ∧
    decode [0b11111110, 0x34, 0x12] = .ok (.inc (.abx 0x1234), []) := by and_intros <;> rfl

/-- 47_common_group0: aaabbb00. -/
theorem test_decode_group0 :
    decode [0b00101100, 0x34, 0x12] = .ok (.bit (.abs 0x1234), []) ∧
    decode [0b10010100, 0x20] = .ok (.sty (.zpx 0x20), []) ∧
    decode [0b10111100, 0x34, 0x12] = .ok (.ldy (.mem (.abx 0x1234)), []) ∧
    decode [0b11000000, 0x20] = .ok (.cpy (.imm 0x20), []) ∧
    decode [0b11100100, 0x20] = .ok (.cpx (.mem (.zp 0x20)), []) := by and_intros <;> rfl

/-- 30_encoding R87: an illegal opcode is one byte long for the decoder; a list too short is no instruction. -/
theorem test_decode_refusals :
    decode [0x02, 0x34] = .ok (.illegal 0x02, [0x34]) ∧ decode [0x89] = .ok (.illegal 0x89, []) ∧
    decode [] = .error .empty ∧ decode [0xAD, 0x34] = .error (.truncated 0xAD) := by and_intros <;> rfl

/-- The table's numbering: one byte, and an operand word of zeros above it. -/
theorem test_decode_table_word :
    decodeTableWord 8 0x4C = some (.jmpAbs 0x0000) ∧ decodeTableWord 8 0x1EA = some .nop ∧
    decodeTableWord 24 0x1234AD = some (.lda (.mem (.abs 0x1234))) := by decide

/-! ## Single steps: the vectors of 95_test_vectors, section 3, by their ids -/

theorem test_jmp_VJ1 :
    cpuAfter (machine ⟨0x00, 0x00, 0x00, 0xFD, 0x24, 0x8000⟩ [(0x8000, 0x4C), (0x8002, 0xC0)]) =
    some ⟨0x00, 0x00, 0x00, 0xFD, 0x24, 0xC000⟩ := by
  decide

theorem test_jmp_VJ3 :
    cpuAfter (machine ⟨0x00, 0x00, 0x00, 0xFD, 0x24, 0x8000⟩ [(0x0200, 0x12), (0x0300, 0x34), (0x8000, 0x6C), (0x8001, 0xFF), (0x8002, 0x02)]) =
    some ⟨0x00, 0x00, 0x00, 0xFD, 0x24, 0x1200⟩ := by
  decide

theorem test_jsr_VS1 :
  let s := machine ⟨0x00, 0x00, 0x00, 0xFD, 0x24, 0x8000⟩ [(0x8000, 0x20), (0x8002, 0x90)]
  cpuAfter s = some ⟨0x00, 0x00, 0x00, 0xFB, 0x24, 0x9000⟩ ∧
    byteAfter s 0x01FC = some 0x02 ∧
    byteAfter s 0x01FD = some 0x80 := by
  decide

theorem test_jsr_VS2 :
  let s := machine ⟨0x00, 0x00, 0x00, 0x00, 0x24, 0x80FE⟩ [(0x80FE, 0x20), (0x80FF, 0x34), (0x8100, 0x12)]
  cpuAfter s = some ⟨0x00, 0x00, 0x00, 0xFE, 0x24, 0x1234⟩ ∧
    byteAfter s 0x0100 = some 0x81 ∧
    byteAfter s 0x01FF = some 0x00 := by
  decide

theorem test_brk_VS3 :
  let s := machine ⟨0x00, 0x00, 0x00, 0xFD, 0x20, 0x8000⟩ [(0xFFFF, 0x90)]
  cpuAfter s = some ⟨0x00, 0x00, 0x00, 0xFA, 0x24, 0x9000⟩ ∧
    byteAfter s 0x01FB = some 0x30 ∧
    byteAfter s 0x01FC = some 0x02 ∧
    byteAfter s 0x01FD = some 0x80 := by
  decide

theorem test_rti_VS5 :
    cpuAfter (machine ⟨0x00, 0x00, 0x00, 0xFA, 0x24, 0x8000⟩ [(0x01FB, 0xC3), (0x01FC, 0x02), (0x01FD, 0x80), (0x8000, 0x40)]) =
    some ⟨0x00, 0x00, 0x00, 0xFD, 0xE3, 0x8002⟩ := by
  decide

theorem test_rti_VS6 :
    cpuAfter (machine ⟨0x00, 0x00, 0x00, 0xFA, 0x24, 0x8000⟩ [(0x01FB, 0x10), (0x01FD, 0x90), (0x8000, 0x40)]) =
    some ⟨0x00, 0x00, 0x00, 0xFD, 0x20, 0x9000⟩ := by
  decide

theorem test_rts_VS7 :
    cpuAfter (machine ⟨0x00, 0x00, 0x00, 0xFB, 0x24, 0x8000⟩ [(0x01FC, 0x02), (0x01FD, 0x80), (0x8000, 0x60)]) =
    some ⟨0x00, 0x00, 0x00, 0xFD, 0x24, 0x8003⟩ := by
  decide

theorem test_rts_VS9 :
    cpuAfter (machine ⟨0x00, 0x00, 0x00, 0xFF, 0x24, 0x8000⟩ [(0x0100, 0x34), (0x0101, 0x12), (0x8000, 0x60)]) =
    some ⟨0x00, 0x00, 0x00, 0x01, 0x24, 0x1235⟩ := by
  decide

theorem test_bpl_VB1 :
    cpuAfter (machine ⟨0x00, 0x00, 0x00, 0xFD, 0x24, 0x8000⟩ [(0x8000, 0x10), (0x8001, 0x05)]) =
    some ⟨0x00, 0x00, 0x00, 0xFD, 0x24, 0x8007⟩ := by
  decide

theorem test_bpl_VB3 :
    cpuAfter (machine ⟨0x00, 0x00, 0x00, 0xFD, 0xA4, 0x8000⟩ [(0x8000, 0x10), (0x8001, 0x05)]) =
    some ⟨0x00, 0x00, 0x00, 0xFD, 0xA4, 0x8002⟩ := by
  decide

theorem test_bmi_VB5 :
    cpuAfter (machine ⟨0x00, 0x00, 0x00, 0xFD, 0xA4, 0x8010⟩ [(0x8010, 0x30), (0x8011, 0xFC)]) =
    some ⟨0x00, 0x00, 0x00, 0xFD, 0xA4, 0x800E⟩ := by
  decide

theorem test_bvc_VB7 :
    cpuAfter (machine ⟨0x00, 0x00, 0x00, 0xFD, 0x24, 0x8000⟩ [(0x8000, 0x50), (0x8001, 0x10)]) =
    some ⟨0x00, 0x00, 0x00, 0xFD, 0x24, 0x8012⟩ := by
  decide

theorem test_bvs_VB9 :
    cpuAfter (machine ⟨0x00, 0x00, 0x00, 0xFD, 0x64, 0x8000⟩ [(0x8000, 0x70)]) =
    some ⟨0x00, 0x00, 0x00, 0xFD, 0x64, 0x8002⟩ := by
  decide

theorem test_bcc_VB11 :
    cpuAfter (machine ⟨0x00, 0x00, 0x00, 0xFD, 0x24, 0x8000⟩ [(0x8000, 0x90), (0x8001, 0x7F)]) =
    some ⟨0x00, 0x00, 0x00, 0xFD, 0x24, 0x8081⟩ := by
  decide

theorem test_bcs_VB13 :
    cpuAfter (machine ⟨0x00, 0x00, 0x00, 0xFD, 0x25, 0x8000⟩ [(0x8000, 0xB0), (0x8001, 0x80)]) =
    some ⟨0x00, 0x00, 0x00, 0xFD, 0x25, 0x7F82⟩ := by
  decide

theorem test_bcs_VB14 :
    cpuAfter (machineSignMagnitude ⟨0x00, 0x00, 0x00, 0xFD, 0x25, 0x8000⟩ [(0x8000, 0xB0), (0x8001, 0x80)]) =
    some ⟨0x00, 0x00, 0x00, 0xFD, 0x25, 0x8002⟩ := by
  decide

theorem test_bne_VB15 :
    cpuAfter (machine ⟨0x00, 0x00, 0x00, 0xFD, 0x24, 0x8005⟩ [(0x8005, 0xD0), (0x8006, 0xFB)]) =
    some ⟨0x00, 0x00, 0x00, 0xFD, 0x24, 0x8002⟩ := by
  decide

theorem test_bne_VB16 :
    cpuAfter (machineSignMagnitude ⟨0x00, 0x00, 0x00, 0xFD, 0x24, 0x8005⟩ [(0x8005, 0xD0), (0x8006, 0xFB)]) =
    some ⟨0x00, 0x00, 0x00, 0xFD, 0x24, 0x7F8C⟩ := by
  decide

theorem test_beq_VB17 :
    cpuAfter (machine ⟨0x00, 0x00, 0x00, 0xFD, 0x24, 0x8000⟩ [(0x8000, 0xF0), (0x8001, 0x40)]) =
    some ⟨0x00, 0x00, 0x00, 0xFD, 0x24, 0x8002⟩ := by
  decide

theorem test_beq_VB19 :
    cpuAfter (machine ⟨0x00, 0x00, 0x00, 0xFD, 0x26, 0x8000⟩ [(0x8000, 0xF0), (0x8001, 0xFE)]) =
    some ⟨0x00, 0x00, 0x00, 0xFD, 0x26, 0x8000⟩ := by
  decide

theorem test_php_VI1 :
  let s := machine ⟨0x00, 0x00, 0x00, 0xFD, 0x21, 0x8000⟩ [(0x8000, 0x08)]
  cpuAfter s = some ⟨0x00, 0x00, 0x00, 0xFC, 0x21, 0x8001⟩ ∧
    byteAfter s 0x01FD = some 0x31 := by
  decide

theorem test_plp_VI2 :
    cpuAfter (machine ⟨0x00, 0x00, 0x00, 0xFC, 0x24, 0x8000⟩ [(0x01FD, 0xFF), (0x8000, 0x28)]) =
    some ⟨0x00, 0x00, 0x00, 0xFD, 0xEF, 0x8001⟩ := by
  decide

theorem test_plp_VI3 :
    cpuAfter (machine ⟨0x00, 0x00, 0x00, 0xFC, 0xEF, 0x8000⟩ [(0x8000, 0x28)]) =
    some ⟨0x00, 0x00, 0x00, 0xFD, 0x20, 0x8001⟩ := by
  decide

theorem test_pha_VI4 :
  let s := machine ⟨0x42, 0x00, 0x00, 0xFD, 0x24, 0x8000⟩ [(0x8000, 0x48)]
  cpuAfter s = some ⟨0x42, 0x00, 0x00, 0xFC, 0x24, 0x8001⟩ ∧
    byteAfter s 0x01FD = some 0x42 := by
  decide

theorem test_pha_VI5 :
  let s := machine ⟨0x42, 0x00, 0x00, 0x00, 0x24, 0x8000⟩ [(0x8000, 0x48)]
  cpuAfter s = some ⟨0x42, 0x00, 0x00, 0xFF, 0x24, 0x8001⟩ ∧
    byteAfter s 0x0100 = some 0x42 := by
  decide

theorem test_pla_VI6 :
    cpuAfter (machine ⟨0x00, 0x00, 0x00, 0xFC, 0x24, 0x8000⟩ [(0x01FD, 0x80), (0x8000, 0x68)]) =
    some ⟨0x80, 0x00, 0x00, 0xFD, 0xA4, 0x8001⟩ := by
  decide

theorem test_pla_VI7 :
    cpuAfter (machine ⟨0x00, 0x00, 0x00, 0xFF, 0x24, 0x8000⟩ [(0x8000, 0x68)]) =
    some ⟨0x00, 0x00, 0x00, 0x00, 0x26, 0x8001⟩ := by
  decide

theorem test_clc_VI8 :
    cpuAfter (machine ⟨0x00, 0x00, 0x00, 0xFD, 0x21, 0x8000⟩ [(0x8000, 0x18)]) =
    some ⟨0x00, 0x00, 0x00, 0xFD, 0x20, 0x8001⟩ := by
  decide

theorem test_sec_VI9 :
    cpuAfter (machine ⟨0x00, 0x00, 0x00, 0xFD, 0x20, 0x8000⟩ [(0x8000, 0x38)]) =
    some ⟨0x00, 0x00, 0x00, 0xFD, 0x21, 0x8001⟩ := by
  decide

theorem test_cli_VI10 :
    cpuAfter (machine ⟨0x00, 0x00, 0x00, 0xFD, 0x24, 0x8000⟩ [(0x8000, 0x58)]) =
    some ⟨0x00, 0x00, 0x00, 0xFD, 0x20, 0x8001⟩ := by
  decide

theorem test_sei_VI11 :
    cpuAfter (machine ⟨0x00, 0x00, 0x00, 0xFD, 0x20, 0x8000⟩ [(0x8000, 0x78)]) =
    some ⟨0x00, 0x00, 0x00, 0xFD, 0x24, 0x8001⟩ := by
  decide

theorem test_clv_VI12 :
    cpuAfter (machine ⟨0x00, 0x00, 0x00, 0xFD, 0x60, 0x8000⟩ [(0x8000, 0xB8)]) =
    some ⟨0x00, 0x00, 0x00, 0xFD, 0x20, 0x8001⟩ := by
  decide

theorem test_cld_VI13 :
    cpuAfter (machine ⟨0x00, 0x00, 0x00, 0xFD, 0x28, 0x8000⟩ [(0x8000, 0xD8)]) =
    some ⟨0x00, 0x00, 0x00, 0xFD, 0x20, 0x8001⟩ := by
  decide

theorem test_sed_VI14 :
    cpuAfter (machine ⟨0x00, 0x00, 0x00, 0xFD, 0x20, 0x8000⟩ [(0x8000, 0xF8)]) =
    some ⟨0x00, 0x00, 0x00, 0xFD, 0x28, 0x8001⟩ := by
  decide

theorem test_tax_VI15 :
    cpuAfter (machine ⟨0xF0, 0x00, 0x00, 0xFD, 0x24, 0x8000⟩ [(0x8000, 0xAA)]) =
    some ⟨0xF0, 0xF0, 0x00, 0xFD, 0xA4, 0x8001⟩ := by
  decide

theorem test_tay_VI16 :
    cpuAfter (machine ⟨0x00, 0x00, 0x00, 0xFD, 0x24, 0x8000⟩ [(0x8000, 0xA8)]) =
    some ⟨0x00, 0x00, 0x00, 0xFD, 0x26, 0x8001⟩ := by
  decide

theorem test_txa_VI17 :
    cpuAfter (machine ⟨0x00, 0x7F, 0x00, 0xFD, 0xA6, 0x8000⟩ [(0x8000, 0x8A)]) =
    some ⟨0x7F, 0x7F, 0x00, 0xFD, 0x24, 0x8001⟩ := by
  decide

theorem test_tya_VI18 :
    cpuAfter (machine ⟨0x00, 0x00, 0x80, 0xFD, 0x24, 0x8000⟩ [(0x8000, 0x98)]) =
    some ⟨0x80, 0x00, 0x80, 0xFD, 0xA4, 0x8001⟩ := by
  decide

theorem test_txs_VI19 :
    cpuAfter (machine ⟨0x00, 0xFF, 0x00, 0xFD, 0x24, 0x8000⟩ [(0x8000, 0x9A)]) =
    some ⟨0x00, 0xFF, 0x00, 0xFF, 0x24, 0x8001⟩ := by
  decide

theorem test_tsx_VI21 :
    cpuAfter (machine ⟨0x00, 0x00, 0x00, 0xFD, 0x24, 0x8000⟩ [(0x8000, 0xBA)]) =
    some ⟨0x00, 0xFD, 0x00, 0xFD, 0xA4, 0x8001⟩ := by
  decide

theorem test_inx_VI22 :
    cpuAfter (machine ⟨0x00, 0xFF, 0x00, 0xFD, 0x24, 0x8000⟩ [(0x8000, 0xE8)]) =
    some ⟨0x00, 0x00, 0x00, 0xFD, 0x26, 0x8001⟩ := by
  decide

theorem test_inx_VI23 :
    cpuAfter (machine ⟨0x00, 0x7F, 0x00, 0xFD, 0x65, 0x8000⟩ [(0x8000, 0xE8)]) =
    some ⟨0x00, 0x80, 0x00, 0xFD, 0xE5, 0x8001⟩ := by
  decide

theorem test_iny_VI24 :
    cpuAfter (machine ⟨0x00, 0x00, 0x10, 0xFD, 0x24, 0x8000⟩ [(0x8000, 0xC8)]) =
    some ⟨0x00, 0x00, 0x11, 0xFD, 0x24, 0x8001⟩ := by
  decide

theorem test_iny_VI25 :
    cpuAfter (machine ⟨0x00, 0x00, 0xFF, 0xFD, 0xE5, 0x8000⟩ [(0x8000, 0xC8)]) =
    some ⟨0x00, 0x00, 0x00, 0xFD, 0x67, 0x8001⟩ := by
  decide

theorem test_dex_VI26 :
    cpuAfter (machine ⟨0x00, 0x00, 0x00, 0xFD, 0x24, 0x8000⟩ [(0x8000, 0xCA)]) =
    some ⟨0x00, 0xFF, 0x00, 0xFD, 0xA4, 0x8001⟩ := by
  decide

theorem test_dey_VI28 :
    cpuAfter (machine ⟨0x00, 0x00, 0x01, 0xFD, 0x24, 0x8000⟩ [(0x8000, 0x88)]) =
    some ⟨0x00, 0x00, 0x00, 0xFD, 0x26, 0x8001⟩ := by
  decide

theorem test_asl_VI30 :
    cpuAfter (machine ⟨0x41, 0x00, 0x00, 0xFD, 0x24, 0x8000⟩ [(0x8000, 0x0A)]) =
    some ⟨0x82, 0x00, 0x00, 0xFD, 0xA4, 0x8001⟩ := by
  decide

theorem test_rol_VI32 :
    cpuAfter (machine ⟨0x40, 0x00, 0x00, 0xFD, 0x25, 0x8000⟩ [(0x8000, 0x2A)]) =
    some ⟨0x81, 0x00, 0x00, 0xFD, 0xA4, 0x8001⟩ := by
  decide

theorem test_lsr_VI34 :
    cpuAfter (machine ⟨0x81, 0x00, 0x00, 0xFD, 0x24, 0x8000⟩ [(0x8000, 0x4A)]) =
    some ⟨0x40, 0x00, 0x00, 0xFD, 0x25, 0x8001⟩ := by
  decide

theorem test_ror_VI36 :
    cpuAfter (machine ⟨0x02, 0x00, 0x00, 0xFD, 0x25, 0x8000⟩ [(0x8000, 0x6A)]) =
    some ⟨0x81, 0x00, 0x00, 0xFD, 0xA4, 0x8001⟩ := by
  decide

theorem test_nop_VI38 :
    cpuAfter (machine ⟨0x00, 0x00, 0x00, 0xFD, 0x24, 0x8000⟩ [(0x8000, 0xEA)]) =
    some ⟨0x00, 0x00, 0x00, 0xFD, 0x24, 0x8001⟩ := by
  decide

theorem test_ora_VG1_1 :
    cpuAfter (machine ⟨0x0F, 0x00, 0x00, 0xFD, 0x24, 0x8000⟩ [(0x8000, 0x09), (0x8001, 0xF0)]) =
    some ⟨0xFF, 0x00, 0x00, 0xFD, 0xA4, 0x8002⟩ := by
  decide

theorem test_and_VG1_3 :
    cpuAfter (machine ⟨0xF0, 0x00, 0x00, 0xFD, 0x24, 0x8000⟩ [(0x8000, 0x29), (0x8001, 0x3C)]) =
    some ⟨0x30, 0x00, 0x00, 0xFD, 0x24, 0x8002⟩ := by
  decide

theorem test_eor_VG1_5 :
    cpuAfter (machine ⟨0xFF, 0x00, 0x00, 0xFD, 0x24, 0x8000⟩ [(0x8000, 0x49), (0x8001, 0x0F)]) =
    some ⟨0xF0, 0x00, 0x00, 0xFD, 0xA4, 0x8002⟩ := by
  decide

theorem test_adc_VG1_7 :
    cpuAfter (machine ⟨0x50, 0x00, 0x00, 0xFD, 0x24, 0x8000⟩ [(0x8000, 0x69), (0x8001, 0x50)]) =
    some ⟨0xA0, 0x00, 0x00, 0xFD, 0xE4, 0x8002⟩ := by
  decide

theorem test_adc_VG1_11 :
    cpuAfter (machine ⟨0x09, 0x00, 0x00, 0xFD, 0x2C, 0x8000⟩ [(0x8000, 0x69), (0x8001, 0x01)]) =
    some ⟨0x0A, 0x00, 0x00, 0xFD, 0x2C, 0x8002⟩ := by
  decide

theorem test_sbc_VG1_13 :
    cpuAfter (machine ⟨0x50, 0x00, 0x00, 0xFD, 0x24, 0x8000⟩ [(0x8000, 0xE9), (0x8001, 0x10)]) =
    some ⟨0x3F, 0x00, 0x00, 0xFD, 0x25, 0x8002⟩ := by
  decide

theorem test_sbc_VG1_14 :
    cpuAfter (machine ⟨0x80, 0x00, 0x00, 0xFD, 0x25, 0x8000⟩ [(0x8000, 0xE9), (0x8001, 0x01)]) =
    some ⟨0x7F, 0x00, 0x00, 0xFD, 0x65, 0x8002⟩ := by
  decide

theorem test_cmp_VG1_20 :
    cpuAfter (machine ⟨0x40, 0x00, 0x00, 0xFD, 0x24, 0x8000⟩ [(0x8000, 0xC9), (0x8001, 0x41)]) =
    some ⟨0x40, 0x00, 0x00, 0xFD, 0xA4, 0x8002⟩ := by
  decide

theorem test_cmp_VG1_21 :
    cpuAfter (machine ⟨0x40, 0x00, 0x00, 0xFD, 0x24, 0x8000⟩ [(0x8000, 0xC9), (0x8001, 0x3F)]) =
    some ⟨0x40, 0x00, 0x00, 0xFD, 0x25, 0x8002⟩ := by
  decide

theorem test_sta_VG1_23 :
  let s := machine ⟨0x3F, 0x00, 0x00, 0xFD, 0x24, 0x8000⟩ [(0x8000, 0x8D), (0x8001, 0x06), (0x8002, 0x20)]
  cpuAfter s = some ⟨0x3F, 0x00, 0x00, 0xFD, 0x24, 0x8003⟩ ∧
    pendingAfter s = some (some (0x3F, .address), none) := by
  decide

theorem test_sta_VG1_33 :
  let s := machine ⟨0x7E, 0x00, 0x05, 0xFD, 0x24, 0x8000⟩ [(0x0041, 0x06), (0x8000, 0x91), (0x8001, 0x40)]
  cpuAfter s = some ⟨0x7E, 0x00, 0x05, 0xFD, 0x24, 0x8002⟩ ∧
    byteAfter s 0x0605 = some 0x7E := by
  decide

theorem test_lda_VG1_32 :
    cpuAfter (machine ⟨0x00, 0x00, 0x01, 0xFD, 0x24, 0x8000⟩ [(0x0000, 0x02), (0x00FF, 0xFF), (0x0300, 0x66), (0x8000, 0xB1), (0x8001, 0xFF)]) =
    some ⟨0x66, 0x00, 0x01, 0xFD, 0x24, 0x8002⟩ := by
  decide

theorem test_lda_VG1_30 :
    cpuAfter (machine ⟨0x00, 0x01, 0x00, 0xFD, 0x24, 0x8000⟩ [(0x0000, 0x04), (0x0400, 0xA5), (0x8000, 0xA1), (0x8001, 0xFE)]) =
    some ⟨0xA5, 0x01, 0x00, 0xFD, 0xA4, 0x8002⟩ := by
  decide

theorem test_ora_VG1_36 :
  let s := machine ⟨0x01, 0x00, 0x00, 0xFD, 0x24, 0x8000⟩ [(0x8000, 0x0D), (0x8001, 0x02), (0x8002, 0x20)] |> withStatusView 0x80
  cpuAfter s = some ⟨0x81, 0x00, 0x00, 0xFD, 0xA4, 0x8003⟩ ∧
    pendingAfter s = some (none, some .status) := by
  decide

theorem test_asl_VG2_1 :
  let s := machine ⟨0x00, 0x00, 0x00, 0xFD, 0x24, 0x8000⟩ [(0x0010, 0x81), (0x8000, 0x06), (0x8001, 0x10)]
  cpuAfter s = some ⟨0x00, 0x00, 0x00, 0xFD, 0x25, 0x8002⟩ ∧
    byteAfter s 0x0010 = some 0x02 := by
  decide

theorem test_rol_VG2_3 :
  let s := machine ⟨0x00, 0x00, 0x00, 0xFD, 0x25, 0x8000⟩ [(0x0010, 0x80), (0x8000, 0x26), (0x8001, 0x10)]
  cpuAfter s = some ⟨0x00, 0x00, 0x00, 0xFD, 0x25, 0x8002⟩ ∧
    byteAfter s 0x0010 = some 0x01 := by
  decide

theorem test_lsr_VG2_4 :
  let s := machine ⟨0x00, 0x00, 0x00, 0xFD, 0x24, 0x8000⟩ [(0x0010, 0x01), (0x8000, 0x46), (0x8001, 0x10)]
  cpuAfter s = some ⟨0x00, 0x00, 0x00, 0xFD, 0x27, 0x8002⟩ ∧
    byteAfter s 0x0010 = some 0x00 := by
  decide

theorem test_ror_VG2_6 :
  let s := machine ⟨0x00, 0x01, 0x00, 0xFD, 0x24, 0x8000⟩ [(0x0301, 0x01), (0x8000, 0x7E), (0x8002, 0x03)]
  cpuAfter s = some ⟨0x00, 0x01, 0x00, 0xFD, 0x27, 0x8003⟩ ∧
    byteAfter s 0x0301 = some 0x00 := by
  decide

theorem test_ror_VG2_5 :
  let s := machine ⟨0x00, 0x00, 0x00, 0xFD, 0x25, 0x8000⟩ [(0x0010, 0x02), (0x8000, 0x66), (0x8001, 0x10)]
  cpuAfter s = some ⟨0x00, 0x00, 0x00, 0xFD, 0xA4, 0x8002⟩ ∧
    byteAfter s 0x0010 = some 0x81 := by
  decide

theorem test_stx_VG2_8 :
  let s := machine ⟨0x00, 0x42, 0x02, 0xFD, 0x24, 0x8000⟩ [(0x8000, 0x96), (0x8001, 0xFF)]
  cpuAfter s = some ⟨0x00, 0x42, 0x02, 0xFD, 0x24, 0x8002⟩ ∧
    byteAfter s 0x0001 = some 0x42 := by
  decide

theorem test_ldx_VG2_12 :
    cpuAfter (machine ⟨0x00, 0x00, 0x01, 0xFD, 0x24, 0x8000⟩ [(0x0201, 0x7F), (0x8000, 0xBE), (0x8002, 0x02)]) =
    some ⟨0x00, 0x7F, 0x01, 0xFD, 0x24, 0x8003⟩ := by
  decide

theorem test_ldx_VG2_10 :
    cpuAfter (machine ⟨0x00, 0x00, 0x00, 0xFD, 0x24, 0x8000⟩ [(0x8000, 0xA2), (0x8001, 0xFF)]) =
    some ⟨0x00, 0xFF, 0x00, 0xFD, 0xA4, 0x8002⟩ := by
  decide

theorem test_dec_VG2_13 :
  let s := machine ⟨0x00, 0x00, 0x00, 0xFD, 0x24, 0x8000⟩ [(0x8000, 0xCE), (0x8002, 0x02)]
  cpuAfter s = some ⟨0x00, 0x00, 0x00, 0xFD, 0xA4, 0x8003⟩ ∧
    byteAfter s 0x0200 = some 0xFF := by
  decide

theorem test_inc_VG2_15 :
  let s := machine ⟨0x00, 0x01, 0x00, 0xFD, 0x24, 0x8000⟩ [(0x0011, 0xFF), (0x8000, 0xF6), (0x8001, 0x10)]
  cpuAfter s = some ⟨0x00, 0x01, 0x00, 0xFD, 0x26, 0x8002⟩ ∧
    byteAfter s 0x0011 = some 0x00 := by
  decide

theorem test_inc_VG2_17 :
  let s := machine ⟨0x00, 0x00, 0x00, 0xFD, 0x24, 0x8000⟩ [(0x8000, 0xEE), (0x8001, 0x07), (0x8002, 0x20)] |> withStaged 0x41
  cpuAfter s = some ⟨0x00, 0x00, 0x00, 0xFD, 0x24, 0x8003⟩ ∧
    pendingAfter s = some (some (0x42, .data), some .data) := by
  decide

theorem test_bit_VG0_1 :
    cpuAfter (machine ⟨0x01, 0x00, 0x00, 0xFD, 0x24, 0x8000⟩ [(0x0010, 0xC0), (0x8000, 0x24), (0x8001, 0x10)]) =
    some ⟨0x01, 0x00, 0x00, 0xFD, 0xE6, 0x8002⟩ := by
  decide

theorem test_bit_VG0_2 :
    cpuAfter (machine ⟨0xFF, 0x00, 0x00, 0xFD, 0xE6, 0x8000⟩ [(0x0200, 0x01), (0x8000, 0x2C), (0x8002, 0x02)]) =
    some ⟨0xFF, 0x00, 0x00, 0xFD, 0x24, 0x8003⟩ := by
  decide

theorem test_sty_VG0_4 :
  let s := machine ⟨0x00, 0xF1, 0x07, 0xFD, 0x24, 0x8000⟩ [(0x8000, 0x94), (0x8001, 0x10)]
  cpuAfter s = some ⟨0x00, 0xF1, 0x07, 0xFD, 0x24, 0x8002⟩ ∧
    byteAfter s 0x0001 = some 0x07 := by
  decide

theorem test_ldy_VG0_6 :
    cpuAfter (machine ⟨0x00, 0x02, 0x00, 0xFD, 0x24, 0x8000⟩ [(0x8000, 0xBC), (0x8002, 0x02)]) =
    some ⟨0x00, 0x02, 0x00, 0xFD, 0x26, 0x8003⟩ := by
  decide

theorem test_cpy_VG0_8 :
    cpuAfter (machine ⟨0x00, 0x00, 0x10, 0xFD, 0x24, 0x8000⟩ [(0x8000, 0xC0), (0x8001, 0x10)]) =
    some ⟨0x00, 0x00, 0x10, 0xFD, 0x27, 0x8002⟩ := by
  decide

theorem test_cpx_VG0_10 :
    cpuAfter (machine ⟨0x00, 0xFF, 0x00, 0xFD, 0x24, 0x8000⟩ [(0x8000, 0xE4), (0x8001, 0x10)]) =
    some ⟨0x00, 0xFF, 0x00, 0xFD, 0xA5, 0x8002⟩ := by
  decide
/-! ## Illegal opcodes (VX1, VX2) -/

theorem test_illegal_report_VX1 :
    let s := machine ⟨0, 0, 0, 0xFD, 0x24, 0x8000⟩ [(0x8000, 0x02)]
    step s = .fault (.illegalOpcode 0x02 0x8000 s) := by rfl

/-- 40_dispatch R96: at a PPU register, the opcode fetch's own read remains. The opcode is the staged byte. -/
theorem test_illegal_report_at_register :
    let s := withStaged 0x02 (machine ⟨0, 0, 0, 0xFD, 0x24, 0x2007⟩ [])
    step s = .fault (.illegalOpcode 0x02 0x2007 (withPending none (some .data) s)) := by rfl

theorem test_illegal_nop_VX2 :
    let s := { machine ⟨0, 0, 0, 0xFD, 0x24, 0x8000⟩ [(0x8000, 0x02)] with
      cfg := { Config.default with illegalOpcodePolicy := .nop } }
    cpuAfter s = some ⟨0, 0, 0, 0xFD, 0x24, 0x8001⟩ ∧
      (nextOf (step s)).map (·.host.outcome) = some (.illegalAsNop 0x02 0x8000) := by decide

/-! ## Interrupts and resets (95_test_vectors, section 4) -/

/-- The memory of section 4. -/
def vectors : Memory := [(0xFFFB, 0x90), (0xFFFD, 0x80), (0xFFFF, 0xA0)]

theorem test_nmi_VE1 :
    let t := cpuNmi (machine ⟨0, 0, 0, 0xFD, 0xA4, 0x8005⟩ vectors)
    t.cpu = ⟨0, 0, 0, 0xFA, 0xA4, 0x9000⟩ ∧ t.peek 0x01FD = 0x80 ∧ t.peek 0x01FC = 0x05 ∧ t.peek 0x01FB = 0xA4 := by
  decide

theorem test_irq_VE2 :
    let t := cpuIrq (machine ⟨0, 0, 0, 0xFD, 0x20, 0x8005⟩ vectors)
    t.cpu = ⟨0, 0, 0, 0xFA, 0x24, 0xA000⟩ ∧ t.peek 0x01FB = 0x20 ∧ t.host.outcome = .ok := by decide

theorem test_irq_masked_VE3 :
    let t := cpuIrq (machine ⟨0, 0, 0, 0xFD, 0x24, 0x8005⟩ vectors)
    t.cpu = ⟨0, 0, 0, 0xFD, 0x24, 0x8005⟩ ∧ t.host.outcome = .masked := by decide

theorem test_reset_VE5 :
    (cpuReset (machine ⟨0, 0, 0, 0xFD, 0xE3, 0x1234⟩ vectors)).cpu = ⟨0, 0, 0, 0xFA, 0xE7, 0x8000⟩ := by decide

theorem test_power_on_VE6 :
    (cpuReset (powerOn (machine ⟨0, 0, 0, 0x55, 0x00, 0x1234⟩ vectors))).cpu = ⟨0, 0, 0, 0xFD, 0x24, 0x8000⟩ := by decide

/-- VE8's first boundary: the NMI wins and is consumed. -/
theorem test_boundary_VE8 :
    let t := boundary (withHost (fun h => { h with nmiPending := true, irqLine := true })
      (machine ⟨0, 0, 0, 0xFD, 0x20, 0x8000⟩ vectors))
    t.cpu = ⟨0, 0, 0, 0xFA, 0x24, 0x9000⟩ ∧ t.host.nmiPending = false ∧ t.peek 0x01FB = 0x20 := by decide

/-- VE9: a CONTROL write that raises the NMI output. -/
theorem test_nmi_edge_VE9 :
    (nextOf (runCall .ppuStep (withPending (some (0x80, .control)) none
      (withPpu (fun p => { p with vblank := true }) (machine ⟨0, 0, 0, 0xFD, 0x24, 0x8000⟩ []))))).map
      (fun t => (t.ppu.control, t.host.nmiPending)) = some (0x80, true) := by decide

/-! ## The PPU (95_test_vectors, sections 1 and 5) -/

/-- A PPU with nothing done to it. -/
def idle : State := machine ⟨0, 0, 0, 0xFD, 0x24, 0x8000⟩ []

def ppuAfter (s : State) : Option Ppu := (nextOf (ppuStep s)).map (·.ppu)

/-- 1.8: an OAM_DATA write at cursor 255 wraps the cursor. -/
theorem test_oam_cursor_wraps :
    (ppuAfter (withPending (some (0xAB, .oamData)) none (withPpu (fun p => { p with oamAddr := 0xFF }) idle))).map
      (fun p => (p.oam.read 0xFF, p.oamAddr)) = some (0xAB, 0x00) := by decide

/-- VP1's second half: the low byte of an address. -/
theorem test_address_low_VP1 :
    (ppuAfter (withPending (some (0x08, .address)) none
      (withPpu (fun p => { p with addr := ⟨0x21, 0x00, false⟩ }) idle))).map
      (fun p => (p.addr.value, p.addr.expectHi)) = some (0x2108, true) := by decide

/-- 1.6: a DATA write of 2C at 3F10 changes palette byte 00 only. -/
theorem test_palette_mirror :
    (ppuAfter (withPending (some (0x2C, .data)) none
      (withPpu (fun p => { p with addr := ⟨0x3F, 0x10, true⟩ }) idle))).map (·.palette) = some [(0x00, 0x2C)] := by decide

/-- 1.7: the step that starts at (261, 340) of the last frame number wraps everything. -/
theorem test_frame_wraps :
    (ppuAfter (withPpu (fun p => { p with cycle := 89341, scanline := 261, dot := 340, frames := 4294967295, oddFrame := true })
      idle)).map (fun p => (p.cycle, p.frames, p.oddFrame)) = some (0, 0, false) := by decide

/-- 48 R199: a DATA access at 4000 fails. -/
theorem test_ppu_fatal :
    let s := withPending none (some .data) (withPpu (fun p => { p with addr := ⟨0x40, 0x00, true⟩ }) idle)
    ppuStep s = .fault (.ppuFatal 0x4000 s) := by rfl

/-- 48 R181, R186: a DATA read that is fatal after a DATA write was serviced undoes the write as well. -/
theorem test_ppu_fatal_undoes :
    let s := withPending (some (0x2C, .data)) (some .data) (withPpu (fun p => { p with addr := ⟨0x3F, 0xFF, true⟩ }) idle)
    ppuStep s = .fault (.ppuFatal 0x4000 s) := by rfl

/-- 93 U9: a frame that ends at its last event position is well-formed, and one that ends before it is refused. -/
theorem test_config_bound :
    ({ Config.default with dotsPerScanline := 1, scanlinesPerFrame := 262, vblankSetPos := (241, 0),
                           vblankClearPos := (261, 1) } : Config).wf ∧
    ¬({ Config.default with dotsPerScanline := 1, scanlinesPerFrame := 261, vblankSetPos := (241, 0),
                            vblankClearPos := (261, 1) } : Config).wf := by decide

theorem test_ill_formed_config :
    step { idle with cfg := { Config.default with scanlinesPerFrame := 200 } } = .refused .illFormedConfig := by rfl

/-! ## Other instances of BUS and CHR (20_memory R56, R60, R65) -/

/-- The idle machine with another bus and another chr space. -/
def onOther (k : Nat) : State := { idle with cfg := { Config.default with bus := .other k, chr := .other k } }

/-- A load and a store are one call of the bus each, with its value and its effect. -/
theorem test_other_bus (k : Nat) :
    memRead 0x8000 (onOther k) =
      ((Config.busLoad k [] 0x8000).1, (onOther k).setExt (Config.busLoad k [] 0x8000).2) ∧
    memWrite 0x4014 0x02 (onOther k) = (onOther k).setExt (Config.busWrite k [] 0x4014 0x02) := ⟨rfl, rfl⟩

/-- A PPU register is the block's on every bus. -/
theorem test_other_bus_register (k : Nat) :
    (memWrite 0x2000 0x80 (onOther k)).bus.pendingWrite = some (0x80, .control) ∧
      (memWrite 0x2000 0x80 (onOther k)).bus.ext = [] := ⟨rfl, rfl⟩

/-- A DATA store and a DATA load below 0x3F00 are one call of the chr space each. -/
theorem test_other_chr (k : Nat) :
    (ppuStore 0x2000 0x55 (onOther k)).map (·.bus.ext) = .ok (Config.chrStore k [] 0x2000 0x55) ∧
      (ppuLoad 0x2000 (onOther k)).map (·.1) = .ok (Config.chrLoad k [] 0x2000).1 := ⟨rfl, rfl⟩

/-! ## A reset of the PPU (70_reset R247) -/

/-- A latch pending from before a `ppu_reset` does not survive it, whatever the schedule. -/
theorem test_ppu_reset_drops_latches (l : List Call) (c : Schedule) :
    ∃ t, runCall .ppuReset { withPending (some (0x80, .control)) (some .data) idle with
        host := { idle.host with schedule := c, calls := l } } = .next t ∧
      t.bus.pendingWrite = none ∧ t.bus.pendingRead = none ∧ t.host.calls = l := ⟨_, rfl, rfl, rfl, rfl⟩

/-! ## A stale sprite record (49 R218) -/

/-- A record 200 lines below its row 0 has a pattern address all the same: 0x1000 + 16 * 0xFF + 200. Row -1 of an 8x16
sprite is row 7 of the tile before, as the model rounds down (log 23). -/
theorem test_stale_record :
    spritePatternAddr { idle.ppu with control := 0x08 } 0xFF 200 = 0x20B8 ∧
      spritePatternAddr { idle.ppu with control := 0x20 } 0x02 (-1) = 0x17 := by decide

/-! ## Witnesses: for each statement with hypotheses, a state and operands that meet them together -/

theorem witness_standard : State.reset.cfg.standard ∧ idle.cfg.standard := ⟨rfl, rfl⟩

theorem witness_DecodeEncodeRoundTrip :
    (Instr.adc (.mem (.izy 0x20))).wf = true ∧ (Instr.ldx (.mem (.aby 0xFFFF))).wf = true ∧ Instr.brk.wf = true ∧
      (Instr.illegal 0xFF).wf = true := by decide

/-- The three bytes that reading at PC gives, in order. -/
def bytesRead (s : State) : List Byte :=
  let f0 := fetchByte (s.dropCall.setOutcome .ok)
  let f1 := fetchByte f0.2
  let f2 := fetchByte f1.2
  [f0.1, f1.1, f2.1]

/-- One instruction of three bytes, BRK, and an instruction fetched from a PPU register. -/
theorem witness_StepRunsDecodedInstruction :
    (let s := machine ⟨0, 0, 0, 0xFD, 0x24, 0x1FFD⟩ [(0x1FFD, 0xAD), (0x1FFE, 0x34), (0x1FFF, 0x12)]
     s.cfg.wf ∧ s.nextCall = .cpuStep ∧ s.cfg.bus = .reference ∧
      decode (bytesRead s) = .ok (.lda (.mem (.abs 0x1234)), []) ∧
      ∀ k : Nat, k < 3 → ppuRegAt (s.cpu.pc + BitVec.ofNat 16 k) = none) ∧
    (let s := State.reset.withFetchWord 8 0x00
     s.cfg.wf ∧ s.host.schedule = .conventional ∧ s.nextCall = .cpuStep ∧ s.cfg.bus = .reference ∧
      decode (bytesRead s) = .ok (.brk, [0x00]) ∧
      ∀ k : Nat, k < 1 → ppuRegAt (s.cpu.pc + BitVec.ofNat 16 k) = none) ∧
    (let s := withStaged 0xEA (machine ⟨0, 0, 0, 0xFD, 0x24, 0x2007⟩ [])
     s.cfg.wf ∧ s.nextCall = .cpuStep ∧ decode (bytesRead s) = .ok (.nop, (bytesRead s).tail)) := by
  refine ⟨⟨by decide, by decide, rfl, rfl, by decide⟩, ⟨by decide, by decide, by decide, rfl, rfl, by decide⟩,
    ⟨by decide, by decide, rfl⟩⟩

/-- The last address before the PPU window and the first after it, on the reference bus and on another. -/
theorem witness_BusAccesses :
    ppuRegAt 0x1FFF = none ∧ ppuRegAt 0x4000 = none ∧ idle.cfg.bus = .reference ∧ (onOther 3).cfg.bus = .other 3 := by
  decide

theorem witness_RegisterWindow :
    ppuRegAt 0x1FFF = none ∧ ppuRegAt 0x2000 = some .control ∧ ppuRegAt 0x3FFF = some .data ∧ ppuRegAt 0x4000 = none := by
  decide

/-- STATUS, DATA at the last mirror, a write-only register, and an instruction fetch there. -/
theorem witness_RegisterAccesses :
    ppuRegAt 0x2002 = some .status ∧ ppuRegAt 0x3FFF = some .data ∧ ppuRegAt 0x2000 = some .control ∧
      (machine ⟨0, 0, 0, 0xFD, 0x24, 0x3FFF⟩ []).cpu.pc = 0x3FFF := by decide

/-- A read of a write-only register completes, whatever its value is. -/
theorem witness_control_read : (memRead 0x2000 idle).2.bus.pendingRead = some .control := by decide

theorem witness_other_standard : (onOther 3).cfg.standard ∧ (onOther 3).cfg.wf := ⟨rfl, by decide⟩

theorem witness_EffectiveAddresses : idle.cfg.bus = .reference := rfl
theorem witness_StackOperations : idle.cfg.standard ∧ idle.cfg.bus = .reference ∧ idle.cpu.s = 0xFD := ⟨rfl, rfl, rfl⟩

theorem witness_PushInstructionResults : idle.cfg.standard := rfl
theorem witness_PullInstructionResults : idle.cfg.standard := rfl
theorem witness_SubroutineResults : idle.cfg.standard ∧ idle.cfg.bus = .reference := ⟨rfl, rfl⟩
theorem witness_BrkResult : idle.cfg.standard ∧ idle.cfg.bus = .reference := ⟨rfl, rfl⟩
theorem witness_RtiResult : idle.cfg.standard ∧ idle.cfg.bus = .reference := ⟨rfl, rfl⟩
theorem witness_CpuResetEntry : idle.cfg.standard ∧ idle.cfg.bus = .reference := ⟨rfl, rfl⟩

/-- Interrupts enabled. -/
def enabled : State := machine ⟨0, 0, 0, 0xFD, 0x20, 0x8000⟩ []

theorem witness_ReturnsUndoEntries :
    enabled.cfg.standard ∧ enabled.cfg.bus = .reference ∧ enabled.cpu.statusOk ∧ enabled.flag .i = false :=
  ⟨rfl, rfl, by decide, by decide⟩

theorem witness_IllegalOpcodeOutcome :
    (0x02 : Byte) ∈ illegalOpcodes ∧ (0xFF : Byte) ∈ illegalOpcodes ∧ idle.cfg.illegalOpcodePolicy = .report ∧
      ({ idle with cfg := { Config.default with illegalOpcodePolicy := .nop } } : State).cfg.illegalOpcodePolicy = .nop ∧
      (let s := machine ⟨0, 0, 0, 0xFD, 0x24, 0x8000⟩ [(0x8000, 0x02)]
       (fetchByte s).1 = 0x02 ∧ s.cfg.bus = .reference ∧ ppuRegAt s.cpu.pc = none) ∧
      (fetchByte (withStaged 0x02 (machine ⟨0, 0, 0, 0xFD, 0x24, 0x2007⟩ []))).1 = 0x02 := by
  decide

theorem witness_LegalInstructionsComplete : ∀ op, Instr.nop ≠ .illegal op := fun _ h => nomatch h

theorem witness_InterruptEntries :
    enabled.cfg.standard ∧ enabled.flag .i = false ∧ idle.cfg.standard ∧ idle.flag .i = true :=
  ⟨rfl, by decide, rfl, by decide⟩

/-- One state for each of the five clauses; the last two say that a masked or an idle line makes no entry. -/
theorem witness_BoundaryPriority :
    (withHost (fun h => { h with resetRequest := some .cpu, nmiPending := true }) idle).host.resetRequest = some .cpu ∧
    (withHost (fun h => { h with resetRequest := some .console }) idle).host.resetRequest = some .console ∧
    (let s := withHost (fun h => { h with nmiPending := true, irqLine := true }) enabled
     s.host.resetRequest = none ∧ s.host.nmiPending = true) ∧
    (let s := withHost (fun h => { h with irqLine := true }) enabled
     s.host.resetRequest = none ∧ s.host.nmiPending = false ∧ s.host.irqLine = true ∧ s.flag .i = false) ∧
    (let s := withHost (fun h => { h with irqLine := true }) idle
     s.host.resetRequest = none ∧ s.host.nmiPending = false ∧ s.flag .i = true) ∧
    (enabled.host.resetRequest = none ∧ enabled.host.nmiPending = false ∧ enabled.host.irqLine = false) := by decide

/-- A PPU at a position, with rendering as its mask says. -/
def ppuAt (scanline dot : Nat) (mask : Byte) : State :=
  withPpu (fun p => { p with mask := mask, scanline := scanline, dot := dot, cycle := scanline * 341 + dot }) idle

/-- A step over which the NMI output rises, at the position that sets vblank, and one over which it does not. -/
theorem witness_NmiEdge :
    (nextOf (runCall .ppuStep (withPpu (fun p => { p with control := 0x80 }) (ppuAt 241 1 0)))).map
      (fun t => (nmiOutput t, t.host.nmiPending)) = some (true, true) ∧
    (nextOf (runCall .ppuStep (ppuAt 241 1 0))).map (fun t => (nmiOutput t, t.host.nmiPending)) = some (false, false) := by
  decide

theorem witness_PpuServices : PpuReg.oamData ≠ .status ∧ PpuReg.oamData ≠ .data := by decide

/-- The last chr address, the first and the last palette address, and the first that fails. -/
theorem witness_DataAccess :
    let at' := fun (h l : Byte) => (withPpu (fun p => { p with addr := ⟨h, l, true⟩ }) idle).ppu.addr.value.toNat
    at' 0x3E 0xFF < 0x3F00 ∧ at' 0x00 0x00 < 0x3F00 ∧ (0x3F00 ≤ at' 0x3F 0x00 ∧ at' 0x3F 0x00 < 0x4000) ∧
      (0x3F00 ≤ at' 0x3F 0xFF ∧ at' 0x3F 0xFF < 0x4000) ∧ 0x4000 ≤ at' 0x40 0x00 ∧ 0x4000 ≤ at' 0xFF 0xFF ∧
      idle.cfg.standard ∧ idle.cfg.chr = .reference ∧ (onOther 3).cfg.standard ∧ (onOther 3).cfg.chr = .other 3 := by
  refine ⟨by decide, by decide, by decide, by decide, by decide, by decide, rfl, rfl, rfl, rfl⟩

/-- A DATA write pending, a DATA read pending, and neither, with the address at the end of the space. -/
theorem witness_PpuFatalOutcome :
    let s := withPpu (fun p => { p with addr := ⟨0x40, 0x00, true⟩ }) idle
    (withPending (some (0x01, .data)) none s).bus.pendingWrite = some (0x01, .data) ∧
      (withPending none (some .data) s).bus.pendingWrite = none ∧
      (withPending none (some .data) s).bus.pendingRead = some .data ∧ 0x4000 ≤ s.ppu.addr.value.toNat ∧
      s.bus.pendingWrite = none ∧ s.bus.pendingRead ≠ some .data ∧
      (withPpu (fun p => { p with addr := ⟨0x3F, 0xFF, true⟩ }) idle).ppu.addr.value.toNat < 0x4000 := by decide

theorem witness_PpuFatalOutcome_fault :
    let s := withPending (some (0x01, .data)) none (withPpu (fun p => { p with addr := ⟨0x40, 0x00, true⟩ }) idle)
    ppuStep s = .fault (.ppuFatal 0x4000 s) := rfl

theorem witness_ToggleLaw : ∀ v, idle.bus.pendingWrite ≠ some (v, .data) := by simp [idle, machine, State.reset]

theorem witness_PaletteMirroring :
    0x3F00 ≤ (0x3F00 : Word).toNat ∧ (0x3F10 : Word).toNat < 0x4000 ∧ 0x3F00 ≤ (0x3FFF : Word).toNat ∧
      (0x3FFF : Word).toNat < 0x4000 := by decide

theorem witness_PpuStepPublishes : ∃ t, ppuStep (withPending (some (0x80, .control)) (some .status) idle) = .next t :=
  ppuStep_completes _ (by simp [withPending]) (by simp [withPending])

theorem ppuAt_completes (scanline dot : Nat) (mask : Byte) : ∃ t, ppuStep (ppuAt scanline dot mask) = .next t :=
  ppuStep_completes _ (by simp [ppuAt, withPpu, idle, machine, State.reset])
    (by simp [ppuAt, withPpu, idle, machine, State.reset])

/-- The three event positions, the last cycle of a frame, and (0, 0). -/
theorem witness_PositionEvents :
    (∀ p ∈ [(241, 1), (261, 1), (240, 0), (261, 340), (0, 0)], (ppuAt p.1 p.2 0).ppu.timingOk (ppuAt p.1 p.2 0).cfg) ∧
    (∃ t, ppuStep (ppuAt 241 1 0) = .next t) ∧ (∃ t, ppuStep (ppuAt 261 1 0) = .next t) ∧
    (∃ t, ppuStep (ppuAt 240 0 0) = .next t) ∧ ∃ t, ppuStep (ppuAt 261 340 0) = .next t :=
  ⟨by decide, ppuAt_completes _ _ _, ppuAt_completes _ _ _, ppuAt_completes _ _ _, ppuAt_completes _ _ _⟩

/-- The first and the last pixel of the frame, the evaluation of a scanline, a position where rendering is off, and the
first dot past the visible ones. -/
theorem witness_PixelSchedule :
    (nextOf (ppuStep (ppuAt 0 1 0x0A))).map (fun t => (t.surface, t.ppu.renderingEnabled)) =
      some ([.setPixel 0 0 0x00], true) ∧
    (nextOf (ppuStep (ppuAt 239 256 0x0A))).map (fun t => (t.surface, t.ppu.renderingEnabled)) =
      some ([.setPixel 255 239 0x00], true) ∧
    (nextOf (ppuStep (ppuAt 1 0 0x0A))).map (fun t => t.ppu.spr0OnLine) = some true ∧
    (nextOf (ppuStep (ppuAt 0 1 0x00))).map (fun t => (t.surface, t.ppu.renderingEnabled)) = some ([], false) ∧
    (nextOf (ppuStep (ppuAt 0 257 0x0A))).map (fun t => t.surface) = some [] := by decide

/-- A background that is on at the left edge and at the right, one that is clipped, and one that is off. -/
theorem witness_BackgroundPixel :
    let s := ppuAt 0 1 0x0A
    let clipped := ppuAt 0 1 0x08
    (s.ppu.mask.getLsbD 3 = true ∧ ((0 : Nat) < 8 → s.ppu.mask.getLsbD 1 = true)) ∧
      (clipped.ppu.mask.getLsbD 3 = true ∧ ((8 : Nat) < 8 → clipped.ppu.mask.getLsbD 1 = true)) ∧
      ((7 : Nat) < 8 ∧ clipped.ppu.mask.getLsbD 1 = false) ∧ (ppuAt 0 1 0x00).ppu.mask.getLsbD 3 = false := by decide

/-- 49 R216: with scroll (0xFF, 0xEF) and nametable 3, the pixel (1, 1) wraps into nametable 0, at its tile (0, 0). -/
theorem test_background_scroll :
    let s := withPpu (fun p => { p with scroll := ⟨0xFF, 0xEF, true⟩, control := 0x03 }) (ppuAt 1 2 0x0A)
    let u := { s with bus := { s.bus with chr := [(0x0010, 0x80), (0x2000, 0x01), (0x23C0, 0x02)] } }
    (bgPixel 1 1 u).1 = 9 ∧ (bgPixel 1 1 u).2.ppu.tileReg = 0x8000 ∧ (bgPixel 0 1 u).1 = 0 := by decide

/-- The first and the last column of a record, the first and the last row of both sizes, and the ends outside; a row far
below it, whose pattern address is one, and a row above it, whose address is below 0. -/
theorem witness_SpriteRecordPixel :
    let r : SpriteRecord := ⟨0x10, 0x01, 0x00, 0x20⟩
    r.y ≠ 0xFF ∧ r.x.toNat ≤ 0x20 ∧ 0x27 < r.x.toNat + 8 ∧ r.y.toNat + 1 ≤ 0x11 ∧ 0x18 < r.y.toNat + 1 + 8 ∧
      0x20 < r.y.toNat + 1 + 16 ∧ 0x1F < r.x.toNat ∧ r.x.toNat + 8 ≤ 0x28 ∧ SpriteRecord.empty.y = 0xFF ∧
      (0 : Int) ≤ 0 + 16 * ((r.tile.toNat : Nat) : Int) + ((239 : Int) - 1 - ((r.y.toNat : Nat) : Int)) ∧
      0 + 16 * ((r.tile.toNat : Nat) : Int) + ((0 : Int) - 1 - ((r.y.toNat : Nat) : Int)) < 0 := by decide

/-- A state in which sprite 0 hits at (8, 1): both layers are on and opaque there. -/
def hitting : State :=
  let s := ppuAt 1 9 0x1E
  { s with
    ppu := { s.ppu with secondary := s.ppu.secondary.set 0 ⟨0x00, 0x00, 0x00, 0x08⟩, spr0OnLine := true }
    bus := { s.bus with chr := [(0x0000, 0xFF), (0x0001, 0xFF)] } }

/-- A record that gives a pixel, with none before it; a state where none does; and sprites off. -/
theorem witness_PixelOutput :
    (sprPixel 8 1 hitting).1 = some ⟨17, false, true⟩ ∧ (bgPixel 8 1 hitting).1 = 1 ∧
      (recordPixel 0 ⟨0x00, 0x00, 0x00, 0x08⟩ 8 1 hitting).1 = some ⟨17, false, true⟩ ∧
      hitting.ppu.mask.getLsbD 4 = true ∧ ((8 : Nat) < 8 → hitting.ppu.mask.getLsbD 2 = true) ∧
      (emitPixel 8 1 hitting).ppu.spr0Hit = true ∧ (sprPixel 8 1 (ppuAt 1 9 0x1E)).1 = none ∧
      (ppuAt 1 9 0x0A).ppu.mask.getLsbD 4 = false := by decide

theorem witness_FrameBudgetLaw :
    State.reset.cfg.wf ∧ State.reset.ppu.timingOk State.reset.cfg ∧
      ∃ t, ppuRun State.reset.cfg.frameCycles State.reset = .next t :=
  ⟨by decide, by decide, ppuRun_completes _ _ (by simp [State.reset]) (by simp [State.reset])⟩

theorem reset_inv : State.reset.Inv := ⟨by decide, by decide, by decide, by decide, by decide, by decide, by decide⟩

theorem witness_StepKeepsInvariant : State.reset.Inv ∧ (nextOf (step State.reset)).isSome = true := ⟨reset_inv, by decide⟩

/-- A step of each kind: an illegal opcode, a fatal DATA access, an ill-formed frame, and one that completes. -/
theorem witness_StepFailures :
    (let s := machine ⟨0, 0, 0, 0xFD, 0x24, 0x8000⟩ [(0x8000, 0x02)]
     step s = .fault (.illegalOpcode 0x02 0x8000 s)) ∧
    (let s := withPending none (some .data) (withPpu (fun p => { p with addr := ⟨0x40, 0x00, true⟩ }) idle)
     step (withHost (fun h => { h with calls := [.ppuStep] }) s) = .fault (.ppuFatal 0x4000 s)) ∧
    step { idle with cfg := { Config.default with scanlinesPerFrame := 200 } } = .refused .illFormedConfig ∧
    (nextOf (step idle)).isSome = true := ⟨rfl, rfl, rfl, by decide⟩

/-- The conventional schedule with each of the calls the statement names, and a step of each that completes. -/
theorem witness_ConventionalSchedule :
    let s := fun (c : Call) => withHost (fun h => { h with schedule := .conventional, calls := [c] }) enabled
    (∀ c ∈ [Call.cpuStep, .cpuNmi, .cpuIrq, .cpuReset, .ppuStep],
      (s c).nextCall = c ∧ (nextOf (step (s c))).isSome = true) ∧
    (s .cpuIrq).flag .i = false ∧ Call.cpuStep.entersCpu (s .cpuStep) = true ∧
    boundaryEntry (withHost (fun h => { h with nmiPending := true }) (s .boundary)) ≠ none := by decide

theorem witness_ConventionalSchedule_oamDma (bytes : Vector Byte 256) :
    let s := withHost (fun h => { h with schedule := .conventional, calls := [.oamDma bytes] }) enabled
    s.nextCall = .oamDma bytes ∧ ∃ t, step s = .next t := by
  refine ⟨rfl, ?_⟩
  simp only [step]
  rw [if_pos (by show Config.default.wf; decide)]
  exact ⟨_, rfl⟩

/-! ## The host's word -/

/-- The host's word: the instruction is the next one to run from reset, in plain memory and past the PPU window. -/
theorem test_withFetchWord :
    cpuAfter (State.reset.withFetchWord 8 0xE8) = some ⟨0x00, 0x01, 0x00, 0xFD, 0x24, 0x0001⟩ ∧
    cpuAfter ((State.reset.setPc 0x2000).withFetchWord 8 0xE8) = some ⟨0x00, 0x01, 0x00, 0xFD, 0x24, 0x8001⟩ := by decide

end Sys2Proof.Tests
end

section
/-! SUPPORT. The invariant of Safety.lean (`State.Inv`), operation by operation: what each operation of the CPU
engine, of the PPU engine and of the run loop does to it. Each lemma `State.Inv.f` says that `f` keeps the
invariant, so that the proof about a composite operation follows its definition. -/

namespace Sys2Proof.Machine

/-! ## Memories -/

/-- A write at an address with a property keeps that every listed address has it. -/
theorem Memory.forall_mem_write {P : Nat → Prop} {m : Memory} {a : Nat} {v : Byte} (h : ∀ c ∈ m, P c.1)
    (ha : P a) : ∀ c ∈ m.write a v, P c.1 := by
  intro c hc
  rcases Memory.mem_write m a v c hc with rfl | hc
  · exact ha
  · exact h c hc

/-- A write outside the PPU window keeps CPU memory as it should be (20_memory R54 to R56). -/
theorem Bus.memOk_write {b : Bus} (h : b.memOk) {a : Word} {v : Byte} (ha : ppuRegAt a = none) :
    Bus.memOk { b with mem := b.mem.write a.toNat v } := by
  obtain ⟨hwf, hbelow, hwindow⟩ := h
  exact ⟨Memory.wf_write _ _ _ hwf, Memory.below_write _ _ _ _ hbelow a.isLt,
    Memory.forall_mem_write (P := fun n => ¬(0x2000 ≤ n ∧ n ≤ 0x3FFF)) hwindow ((ppuRegAt_eq_none a).mp ha)⟩

/-- `pal_index` never gives 0x10, 0x14, 0x18 or 0x1C (20_memory R58). -/
theorem palIndex_mirrored : ∀ i : BitVec 5, ¬(16 ≤ (palIndex i).toNat ∧ (palIndex i).toNat % 4 = 0) := by decide

/-- A palette write keeps the palette in its 28 bytes (10_state R45). -/
theorem Ppu.paletteOk_palWrite {p : Ppu} (h : p.paletteOk) {i : BitVec 5} {v : Byte} : (palWrite i v p).paletteOk := by
  obtain ⟨hwf, hbelow, hmirrors⟩ := h
  exact ⟨Memory.wf_write _ _ _ hwf, Memory.below_write _ _ _ _ hbelow (palIndex i).isLt,
    Memory.forall_mem_write (P := fun n => ¬(16 ≤ n ∧ n % 4 = 0)) hmirrors (palIndex_mirrored i)⟩

/-- The 256 writes of `oam_dma` are taken modulo 256, so they stay inside OAM (48 R198). -/
theorem oamDmaFrom_ok (oamAddr : Byte) (bytes : List Byte) (i : Nat) (oam : Memory) (h : oam.wf ∧ oam.below 256) :
    (oamDmaFrom oamAddr bytes i oam).wf ∧ (oamDmaFrom oamAddr bytes i oam).below 256 := by
  induction bytes generalizing i oam with
  | nil => exact h
  | cons v vs ih =>
    exact ih _ _ ⟨Memory.wf_write _ _ _ h.1, Memory.below_write _ _ _ _ h.2 (Nat.mod_lt _ (by decide))⟩

/-! ## The counters -/

/-- `Advance()` keeps the counters in their ranges (49 R205). -/
theorem Ppu.timingOk_advance {cfg : Config} {p : Ppu} (h : p.timingOk cfg) : (advance cfg p).timingOk cfg := by
  obtain ⟨hcycle, -, hdot, hframes⟩ := h
  refine ⟨?_, ?_, ?_, ?_⟩
  · rw [advance_cycle]
    split <;> omega
  · rw [advance_scanline, advance_dot, Nat.div_add_mod']
  · rw [advance_dot]
    exact Nat.mod_lt _ (Nat.zero_lt_of_lt hdot)
  · rw [advance_frames]
    split
    · exact Nat.mod_lt _ (Nat.two_pow_pos _)
    · exact hframes

/-- The counters' condition looks at the counters only. -/
theorem Ppu.timingOk_of_sameCounters {cfg : Config} {p q : Ppu} (h : p.timingOk cfg) (k : SameCounters p q) :
    q.timingOk cfg := by
  simpa only [Ppu.timingOk, k.cycle, k.scanline, k.dot, k.frames] using h

/-- The counters' values after a reset are in range wherever some values are. -/
theorem Ppu.timingOk_reset {cfg : Config} {p : Ppu} (h : p.timingOk cfg) : State.reset.ppu.timingOk cfg := by
  obtain ⟨hcycle, -, hdot, -⟩ := h
  exact ⟨Nat.zero_lt_of_lt hcycle, (Nat.zero_mul _).symm, Nat.zero_lt_of_lt hdot, Nat.two_pow_pos _⟩

/-- `StatusByte()` has bits 4:0 zero (48 R200). -/
theorem Ppu.statusByte_low (p : Ppu) : p.statusByte &&& 0x1F = 0 := by
  unfold Ppu.statusByte
  cases p.vblank <;> cases p.spr0Hit <;> cases p.sprOverflow <;> rfl

/-! ## Updates of one part of the state -/

section

variable {s t : State}

/-- What the CPU engine may change is CPU memory and P. -/
theorem State.Inv.of_cpuOnly (h : s.Inv) (k : CpuOnly s t) (hm : t.bus.memOk) (hp : t.cpu.statusOk) : t.Inv where
  mem := hm
  chr := by simpa only [Bus.chrOk, k.chr, k.cfg] using h.chr
  oam := by simpa only [Ppu.oamOk, k.ppu] using h.oam
  palette := by simpa only [Ppu.paletteOk, k.ppu] using h.palette
  timing := by simpa only [Ppu.timingOk, k.ppu, k.cfg] using h.timing
  status := hp
  statusView := by simpa only [Bus.statusViewOk, k.statusView] using h.statusView

protected theorem State.Inv.setCpu (h : s.Inv) {c : Cpu} (hc : c.statusOk) : State.Inv { s with cpu := c } :=
  { h with status := hc }

protected theorem State.Inv.setPpu (h : s.Inv) {p : Ppu} (ho : p.oamOk) (hp : p.paletteOk) (ht : p.timingOk s.cfg) :
    State.Inv { s with ppu := p } :=
  { h with oam := ho, palette := hp, timing := ht }

protected theorem State.Inv.setHost (h : s.Inv) {l : RunLoop} : State.Inv { s with host := l } := { h with }

protected theorem State.Inv.setLatches (h : s.Inv) {w : Option (Byte × PpuReg)} {r : Option PpuReg} {v : Byte} :
    State.Inv { s with bus := { s.bus with pendingWrite := w, pendingRead := r, staged := v } } := { h with }

protected theorem State.Inv.setExt (h : s.Inv) {e : List Nat} : (s.setExt e).Inv := { h with }

protected theorem State.Inv.setA (h : s.Inv) {v : Byte} : (s.setA v).Inv := h.setCpu h.status
protected theorem State.Inv.setX (h : s.Inv) {v : Byte} : (s.setX v).Inv := h.setCpu h.status
protected theorem State.Inv.setY (h : s.Inv) {v : Byte} : (s.setY v).Inv := h.setCpu h.status
protected theorem State.Inv.setS (h : s.Inv) {v : Byte} : (s.setS v).Inv := h.setCpu h.status
protected theorem State.Inv.setPc (h : s.Inv) {w : Word} : (s.setPc w).Inv := h.setCpu h.status

/-- A pulled P has its stored bits right (40_dispatch R112). -/
protected theorem State.Inv.setP (h : s.Inv) {v : Byte} : (s.setP (pulledP v)).Inv :=
  h.setCpu ⟨getFlag_pulledP v .u, getFlag_pulledP v .b⟩

/-- Only writing 0 to U or 1 to B would break the stored bits of P (10_state R30, R31). -/
protected theorem State.Inv.setFlag (h : s.Inv) {f : Flag} {v : Bool} (hu : f = .u → v = true := by simp)
    (hb : f = .b → v = false := by simp) : (s.setFlag f v).Inv := by
  obtain ⟨hsu, hsb⟩ := h.status
  refine h.setCpu ⟨?_, ?_⟩ <;> rw [getFlag_putFlag] <;> split
  · next e => exact hu e.symm
  · exact hsu
  · next e => exact hb e.symm
  · exact hsb

protected theorem State.Inv.setZN (h : s.Inv) {r : Byte} : (s.setZN r).Inv := h.setFlag.setFlag

protected theorem State.Inv.compare (h : s.Inv) {r m : Byte} : (s.compare r m).Inv := h.setFlag.setFlag.setFlag

/-! ## The CPU engine's accesses -/

protected theorem State.Inv.memRead (h : s.Inv) {a : Word} : (memRead a s).2.Inv := by
  refine h.of_cpuOnly (memRead_readsAt a s).toCpuOnly ?_ ?_
  · simpa only [Bus.memOk, memRead_mem] using h.mem
  · simpa only [memRead_cpu] using h.status

/-- A write at an address that is no PPU register is one of CPU memory or of another bus; the others record. -/
protected theorem State.Inv.memWrite (h : s.Inv) {a : Word} {v : Byte} : (memWrite a v s).Inv := by
  unfold Machine.memWrite
  split
  · next ha =>
    unfold busWrite
    split
    · exact { h with mem := Bus.memOk_write h.mem ha }
    · exact h.setExt
  · exact h.setLatches

protected theorem State.Inv.read16 (h : s.Inv) {a : Word} : (read16 a s).2.Inv := h.memRead.memRead

protected theorem State.Inv.push (h : s.Inv) {b : Byte} : (push b s).Inv := h.memWrite.setS

protected theorem State.Inv.pull (h : s.Inv) : (pull s).2.Inv := h.setS.memRead

protected theorem State.Inv.pushWord (h : s.Inv) {w : Word} : (pushWord w s).Inv := h.push.push

protected theorem State.Inv.pullWord (h : s.Inv) : (pullWord s).2.Inv := h.pull.pull

protected theorem State.Inv.effectiveAddress (h : s.Inv) {m : MemOperand} : (effectiveAddress m s).2.Inv := by
  cases m with
  | zp | zpx | zpy | abs | abx | aby => exact h
  | izx | izy => exact h.memRead.memRead

protected theorem State.Inv.readMem (h : s.Inv) {m : MemOperand} : (readMem m s).2.Inv := h.effectiveAddress.memRead

protected theorem State.Inv.readOperand (h : s.Inv) {o : Operand} : (readOperand o s).2.Inv := by
  cases o with
  | imm => exact h
  | mem => exact h.readMem

protected theorem State.Inv.store (h : s.Inv) {m : MemOperand} {v : Byte} : (store m v s).Inv :=
  h.effectiveAddress.memWrite

protected theorem State.Inv.modify (h : s.Inv) {m : MemOperand} {f : Byte → Byte} : (modify m f s).2.Inv :=
  h.readMem.memWrite

protected theorem State.Inv.branchIf (h : s.Inv) {c : Bool} {b : Byte} : (branchIf c b s).Inv := by
  unfold Machine.branchIf
  split
  · exact h.setPc
  · exact h

protected theorem State.Inv.fetchByte (h : s.Inv) : (fetchByte s).2.Inv := h.memRead.setPc

protected theorem State.Inv.fetchBytes (h : s.Inv) {n : Nat} : (fetchBytes n s).2.Inv := by
  induction n generalizing s with
  | zero => exact h
  | succ n ih => exact ih h.fetchByte

protected theorem State.Inv.fetch (h : s.Inv) : (fetch s).2.Inv := h.fetchByte.fetchBytes

/-! ## The entries and the return -/

protected theorem State.Inv.takeException (h : s.Inv) {ret : Word} {b : Bool} {vector : Word} :
    (takeException ret b vector s).Inv := h.pushWord.push.setFlag.read16.setPc

protected theorem State.Inv.returnFromException (h : s.Inv) : (returnFromException s).Inv := h.pull.setP.pullWord.setPc

protected theorem State.Inv.cpuNmi (h : s.Inv) : (cpuNmi s).Inv := h.takeException

protected theorem State.Inv.cpuIrq (h : s.Inv) : (cpuIrq s).Inv := by
  unfold Machine.cpuIrq
  split
  · exact h.setHost
  · exact h.takeException

protected theorem State.Inv.cpuReset (h : s.Inv) : (cpuReset s).Inv := h.setS.setFlag.setFlag.setFlag.read16.setPc

/-! ## The instructions -/

/-- Where the outcome is a state, the invariant holds there. -/
def NextInv (o : Host.Outcome State Fault Refusal) : Prop := ∀ t, o = .next t → t.Inv

theorem State.Inv.next (h : s.Inv) : NextInv (.next s) := by
  rintro t ⟨⟩
  exact h

theorem nextInv_fault {e : Fault} : NextInv (.fault e) := by simp [NextInv]

theorem nextInv_refused {e : Refusal} : NextInv (.refused e) := by simp [NextInv]

theorem NextInv.andThen {o : Host.Outcome State Fault Refusal} {f : State → Host.Outcome State Fault Refusal}
    (h : NextInv o) (hf : ∀ s : State, s.Inv → NextInv (f s)) : NextInv (andThen o f) := by
  cases o with
  | next s => exact hf s (h s rfl)
  | fault => exact nextInv_fault
  | refused => exact nextInv_refused

protected theorem State.Inv.execIllegal (h : s.Inv) {op : Byte} : NextInv (execIllegal op s) := by
  unfold Machine.execIllegal
  split
  · exact nextInv_fault
  · exact (State.Inv.setHost h).next

/-- Every instruction keeps the invariant, operation by operation of its meaning. -/
protected theorem State.Inv.exec (h : s.Inv) (i : Instr) : NextInv (exec i s) := by
  cases i with
  | jmpAbs => exact h.setPc.next
  | jmpInd => exact h.memRead.memRead.setPc.next
  | jsr => exact h.pushWord.setPc.next
  | brk => exact h.takeException.next
  | rti => exact h.returnFromException.next
  | rts => exact h.pullWord.setPc.next
  | bpl | bmi | bvc | bvs | bcc | bcs | bne | beq => exact h.branchIf.next
  | php | pha => exact h.push.next
  | plp => exact h.pull.setP.next
  | pla => exact h.pull.setA.setZN.next
  | clc | sec | cli | sei | clv | cld | sed => exact h.setFlag.next
  | tax | tsx | inx | dex => exact h.setX.setZN.next
  | tay | iny | dey => exact h.setY.setZN.next
  | txa | tya => exact h.setA.setZN.next
  | txs => exact h.setS.next
  | aslA | rolA | lsrA | rorA => exact h.setA.setFlag.setZN.next
  | nop => exact h.next
  | ora | and | eor | lda => exact h.readOperand.setA.setZN.next
  | adc | sbc => exact h.readOperand.setA.setFlag.setFlag.setZN.next
  | sta | stx | sty => exact h.store.next
  | cmp | cpy | cpx => exact h.readOperand.compare.next
  | asl | rol | lsr | ror => exact h.modify.setFlag.setZN.next
  | ldx => exact h.readOperand.setX.setZN.next
  | ldy => exact h.readOperand.setY.setZN.next
  | dec | inc => exact h.modify.setZN.next
  | bit => exact h.readMem.setFlag.setFlag.setFlag.next
  | illegal => exact h.execIllegal

/-! ## The PPU engine -/

theorem State.Inv.of_chrReads (h : s.Inv) (k : ChrReads s t) : t.Inv := by
  rw [k]
  exact { h with }

/-- A chr store below PALETTE_BASE keeps chr space below it (20_memory R59, R60). -/
protected theorem State.Inv.chrWrite (h : s.Inv) {a : Nat} {v : Byte} (ha : a < s.cfg.paletteBase) :
    (chrWrite a v s).Inv := by
  unfold Machine.chrWrite
  split
  · exact { h with chr := ⟨Memory.wf_write _ _ _ h.chr.1, Memory.below_write _ _ _ _ h.chr.2 ha⟩ }
  · exact h.setExt

protected theorem State.Inv.increment (h : s.Inv) : State.Inv { s with ppu := s.ppu.increment } :=
  h.setPpu h.oam h.palette h.timing

theorem State.Inv.of_ppuStore (h : s.Inv) {a : Word} {v : Byte} (k : ppuStore a v s = .ok t) : t.Inv := by
  rcases ppuStore_cases a v s t k with ⟨ha, rfl⟩ | ⟨-, -, rfl⟩
  · exact h.chrWrite ha
  · exact h.setPpu h.oam (Ppu.paletteOk_palWrite h.palette) h.timing

theorem State.Inv.of_serviceWrite (h : s.Inv) {r : PpuReg} {v : Byte} (k : serviceWrite r v s = .ok t) : t.Inv := by
  cases r with
  | data =>
    simp only [serviceWrite] at k
    split at k
    · nomatch k
    · next hu =>
      cases k
      exact (h.of_ppuStore hu).increment
  | oamData =>
    cases k
    exact h.setPpu ⟨Memory.wf_write _ _ _ h.oam.1, Memory.below_write _ _ _ _ h.oam.2 s.ppu.oamAddr.isLt⟩
      h.palette h.timing
  | status =>
    cases k
    exact h
  | control | mask | oamAddr | scroll | address =>
    cases k
    exact h.setPpu h.oam h.palette h.timing

theorem State.Inv.of_serviceRead (h : s.Inv) {r : PpuReg} (k : serviceRead r s = .ok t) : t.Inv := by
  cases r with
  | data =>
    simp only [serviceRead] at k
    split at k
    · nomatch k
    · next hl =>
      cases k
      exact (h.of_chrReads (ppuLoad_frame _ _ _ hl)).increment.setLatches
  | status =>
    cases k
    exact h.setPpu h.oam h.palette h.timing
  | control | mask | oamAddr | oamData | scroll | address =>
    cases k
    exact h

theorem State.Inv.of_takeWrite (h : s.Inv) (k : takeWrite s = .ok t) : t.Inv := by
  unfold takeWrite at k
  split at k
  · cases k
    exact h
  · exact State.Inv.of_serviceWrite h.setLatches k

theorem State.Inv.of_takeRead (h : s.Inv) (k : takeRead s = .ok t) : t.Inv := by
  unfold takeRead at k
  split at k
  · cases k
    exact h
  · exact State.Inv.of_serviceRead h.setLatches k

theorem State.Inv.of_services (h : s.Inv) (k : services s = .ok t) : t.Inv := by
  obtain ⟨u, hw, hr⟩ := services_cases s t k
  exact (h.of_takeWrite hw).of_takeRead hr

/-- Rendering and events leave what the invariant looks at; the counters advance (49 R204). -/
protected theorem State.Inv.tick (h : s.Inv) : (tick s).Inv := by
  obtain ⟨hside, hbus, -, -, -, -, -, hoam, hpalette, hcounters⟩ := tick_frame s
  constructor
  case mem => simpa only [Bus.memOk, hside.mem] using h.mem
  case chr => rw [hside.cfg, hbus]; exact h.chr
  case oam => simpa only [Ppu.oamOk, hoam] using h.oam
  case palette => simpa only [Ppu.paletteOk, hpalette] using h.palette
  case timing =>
    rw [hside.cfg]
    exact Ppu.timingOk_of_sameCounters (Ppu.timingOk_advance h.timing) hcounters
  case status => rw [hside.cpu]; exact h.status
  case statusView => rw [hbus]; exact h.statusView

protected theorem State.Inv.publishStatus (h : s.Inv) : (publishStatus s).Inv :=
  { h with statusView := s.ppu.statusByte_low }

protected theorem State.Inv.ppuStep (h : s.Inv) : NextInv (ppuStep s) := by
  intro t ht
  obtain ⟨u, hu, rfl⟩ := ppuStep_cases s t ht
  exact (h.of_services hu).tick.publishStatus

protected theorem State.Inv.oamDma (h : s.Inv) {bytes : Vector Byte 256} : (oamDma bytes s).Inv :=
  h.setPpu (oamDmaFrom_ok _ _ _ _ h.oam) h.palette h.timing

protected theorem State.Inv.ppuResetFrames (h : s.Inv) : (ppuResetFrames s).Inv := by
  obtain ⟨hcycle, hpos, hdot, -⟩ := h.timing
  exact h.setPpu h.oam h.palette ⟨hcycle, hpos, hdot, Nat.two_pow_pos _⟩

protected theorem State.Inv.busReset (h : s.Inv) : (busReset s).Inv := { h with statusView := BitVec.zero_and }

protected theorem State.Inv.ppuReset (h : s.Inv) : (ppuReset s).Inv :=
  { h with timing := Ppu.timingOk_reset h.timing, statusView := BitVec.zero_and }

protected theorem State.Inv.resetPpu (h : s.Inv) : (resetPpu s).Inv := h.ppuReset.busReset

/-! ## The run loop -/

protected theorem State.Inv.deliverReset (h : s.Inv) {k : ResetKind} : (deliverReset k s).Inv := by
  cases k with
  | cpu => exact h.setHost.cpuReset
  | console => exact h.setHost.cpuReset.resetPpu.setHost

protected theorem State.Inv.boundary (h : s.Inv) : (boundary s).Inv := by
  unfold Machine.boundary
  split
  · exact h
  · exact h.deliverReset
  · exact h.setHost.cpuNmi
  · exact h.cpuIrq

protected theorem State.Inv.runCall (h0 : s.Inv) (c : Call) : NextInv (runCall c s) := by
  have h : (s.setOutcome .ok).Inv := h0.setHost
  cases c with
  | cpuStep => exact h.fetch.exec _
  | cpuNmi => exact h.cpuNmi.next
  | cpuIrq => exact h.cpuIrq.next
  | cpuReset => exact h.cpuReset.next
  | ppuStep => exact h.ppuStep.andThen fun t ht => ht.setHost.next
  | ppuReset => exact h.resetPpu.next
  | oamDma bytes => exact h.oamDma.next
  | ppuResetFrames => exact h.ppuResetFrames.next
  | boundary => exact h.boundary.next
  | busReset => exact h.busReset.next
  | setIrqLine | requestReset => exact h.setHost.next
  | hostWrite => exact h.memWrite.next
  | hostChrWrite a v =>
    refine State.Inv.next ?_
    split
    · next ha => exact h.chrWrite ha
    · exact h
  | hostSetPc => exact h.setPc.next
  | hostSetExt => exact h.setExt.next

protected theorem State.Inv.perform (h : s.Inv) (c : Call) : NextInv (perform c s) := by
  refine (h.runCall c).andThen fun t ht => ?_
  split
  · exact ht.next
  · exact (State.Inv.setHost ht).next

protected theorem State.Inv.step (h : s.Inv) : NextInv (step s) := by
  unfold Machine.step
  split
  · exact (State.Inv.setHost h).perform _
  · exact nextInv_refused

end

/-- Settles O56: the invariant is kept call by call, and every call is made of operations that keep it. -/
theorem stepKeepsInvariant : Obligations.StepKeepsInvariant := by
  intro s t h ht
  exact h.step t ht

end Sys2Proof.Machine
end

section
/-! SUPPORT. The register window (10_state R36). -/

namespace Sys2Proof.Machine

/-- Inside the PPU window the register depends on the address modulo 8 only (10_state R36). -/
theorem ppuRegAt_mirror (a : Word) (h : 0x2000 ≤ a.toNat ∧ a.toNat ≤ 0x3FFF) :
    ppuRegAt a = ppuRegAt (BitVec.ofNat 16 (0x2000 + a.toNat % 8)) := by
  have hb : (BitVec.ofNat 16 (0x2000 + a.toNat % 8)).toNat = 0x2000 + a.toNat % 8 := by
    rw [BitVec.toNat_ofNat, Nat.mod_eq_of_lt (by omega)]
  have hm : (0x2000 + a.toNat % 8) % 8 = a.toNat % 8 := by omega
  unfold ppuRegAt
  rw [hb, hm, if_pos h, if_pos (by omega)]

/-- Settles O8: the identities at their addresses by evaluation, the mirrors by `ppuRegAt_mirror`. -/
theorem registerWindow : Obligations.RegisterWindow := by
  refine ⟨rfl, rfl, rfl, rfl, rfl, rfl, rfl, rfl, fun a => ?_⟩
  split
  · next h => exact ppuRegAt_mirror a h
  · next h => exact (ppuRegAt_eq_none a).mpr h

end Sys2Proof.Machine
end

section
/-! SUPPORT. One access of the CPU bus (20_memory R53 to R56), on each kind of bus and at a PPU register. -/

namespace Sys2Proof.Machine

/-- A load of another bus than the reference bus is one call of it (20_memory R56, R65). -/
theorem memRead_other (a : Word) (s : State) {k : Nat} (hb : s.cfg.bus = .other k) (h : ppuRegAt a = none) :
    memRead a s = ((Config.busLoad k s.bus.ext a).1, s.setExt (Config.busLoad k s.bus.ext a).2) := by
  simp [memRead, busLoad, h, hb]

/-- A store to another bus than the reference bus is one call of it (20_memory R56). -/
theorem memWrite_other (a : Word) (v : Byte) (s : State) {k : Nat} (hb : s.cfg.bus = .other k)
    (h : ppuRegAt a = none) : memWrite a v s = s.setExt (Config.busWrite k s.bus.ext a v) := by
  simp [memWrite, busWrite, h, hb]

/-- A read of a PPU register gives the register's value on the bus and becomes the pending read (20_memory R55). -/
theorem memRead_register (a : Word) (s : State) {r : PpuReg} (h : ppuRegAt a = some r) :
    memRead a s = (s.regReadValue r, s.noteRegRead r) := by
  simp [memRead, h]

/-- A write to a PPU register becomes the pending write (20_memory R54). -/
theorem memWrite_register (a : Word) (v : Byte) (s : State) {r : PpuReg} (h : ppuRegAt a = some r) :
    memWrite a v s = { s with bus := { s.bus with pendingWrite := some (v, r) } } := by
  simp [memWrite, h]

/-- Settles O7: on the reference bus by the memory's own laws, on another bus by its one call, and the frame by
the frames of a read and of a write. -/
theorem busAccesses : Obligations.BusAccesses := by
  intro a v s ha
  have hpending : (memWrite a v s).bus.pendingWrite = s.bus.pendingWrite := by
    simp only [memWrite_pendingWrite, writeRecorded, ha]
  refine ⟨fun hb => ⟨memRead_plain a s hb ha, fun b => ?_, ?_⟩,
    fun k hk => ⟨memRead_other a s hk ha, memWrite_other a v s hk ha⟩,
    memWrite_cpu a v s, (memWrite_storesAt a v s).toCpuOnly, hpending, memWrite_pendingRead a v s,
    memRead_cpu a s, memRead_readsAt a s⟩
  · simp [memWrite_peek, ha, hb]
  · simp [memWrite_ext, writeExt, ha, hb]

/-- Settles O9: a write by `memWrite_register`, a read by `memRead_register` and the frame of a read; a fetch is
that read with PC advanced. -/
theorem registerAccesses : Obligations.RegisterAccesses := by
  intro a r v s ha
  have hread : (memRead a s).2.bus.pendingRead = some r := by simp only [memRead_pendingRead, readRecorded, ha]
  have hext : (memRead a s).2.bus.ext = s.bus.ext := by simp only [memRead_ext, readExt, ha]
  refine ⟨memWrite_register a v s ha, ?status, ?data, hread, hext, memRead_cpu a s,
    (memRead_readsAt a s).toNoStore, ?fetch⟩
  case status => rintro rfl; rw [memRead_register a s ha]; rfl
  case data => rintro rfl; rw [memRead_register a s ha]; rfl
  case fetch =>
    rintro rfl
    exact ⟨rfl, hread, by simp [fetchByte, State.setPc]⟩

end Sys2Proof.Machine
end

section
/-! SUPPORT. The palette window of the PPU space (20_memory R58, R59, 48 R182). -/

namespace Sys2Proof.Machine

/-- A palette byte read after a palette write: the mirroring alone decides whether they meet (20_memory R58). -/
theorem palRead_palWrite (i j : BitVec 5) (v : Byte) (p : Ppu) :
    palRead i (palWrite j v p) = if palIndex i = palIndex j then v else palRead i p := by
  simp [palRead, palWrite, Memory.read_write, BitVec.toNat_inj]

/-- A load in the palette window reads the palette and changes nothing (48 R182). -/
theorem ppuLoad_palette (a : Word) (s : State) (hs : s.cfg.standard) (hlo : 0x3F00 ≤ a.toNat) (hhi : a.toNat < 0x4000) :
    ppuLoad a s = .ok (palRead (palOffset a) s.ppu, s) := by
  rw [ppuLoad, hs, if_neg (Nat.not_le.mpr hhi), if_neg (Nat.not_lt.mpr hlo)]

/-- A store in the palette window writes the palette (48 R182). -/
theorem ppuStore_palette (a : Word) (v : Byte) (s : State) (hs : s.cfg.standard) (hlo : 0x3F00 ≤ a.toNat)
    (hhi : a.toNat < 0x4000) : ppuStore a v s = .ok { s with ppu := palWrite (palOffset a) v s.ppu } := by
  rw [ppuStore, hs, if_neg (Nat.not_le.mpr hhi), if_neg (Nat.not_lt.mpr hlo)]

/-- In the palette window a load sees a store exactly where the mirroring maps both to one byte (20_memory R58). -/
theorem palette_load_after_store (v : Byte) (s : State) (hs : s.cfg.standard) (a b : Word)
    (ha : 0x3F00 ≤ a.toNat) (ha' : a.toNat < 0x4000) (hb : 0x3F00 ≤ b.toNat) (hb' : b.toNat < 0x4000) :
    ∃ t w, ppuStore a v s = .ok t ∧ ppuLoad b s = .ok (w, s) ∧
      ppuLoad b t = .ok (if palIndex (palOffset b) = palIndex (palOffset a) then v else w, t) := by
  refine ⟨_, _, ppuStore_palette a v s hs ha ha', ppuLoad_palette b s hs hb hb', ?_⟩
  rw [ppuLoad_palette b { s with ppu := palWrite (palOffset a) v s.ppu } hs hb hb', palRead_palWrite]

/-- Settles O46: the mirroring index by index, and every pair of addresses, the three named ones too, by
`palette_load_after_store`. -/
theorem paletteMirroring : Obligations.PaletteMirroring := by
  refine ⟨by decide, fun v s hs => ⟨palette_load_after_store v s hs, ?_, ?_, ?_⟩⟩
  · obtain ⟨t, _, hstore, -, hload⟩ :=
      palette_load_after_store v s hs 0x3F10 0x3F00 (by decide) (by decide) (by decide) (by decide)
    exact ⟨t, hstore, hload⟩
  · obtain ⟨t, _, hstore, -, hload⟩ :=
      palette_load_after_store v s hs 0x3F00 0x3F10 (by decide) (by decide) (by decide) (by decide)
    exact ⟨t, hstore, hload⟩
  · exact palette_load_after_store v s hs 0x3F05 0x3F15 (by decide) (by decide) (by decide) (by decide)

end Sys2Proof.Machine
end

section
/-! SUPPORT. The operand bytes an opcode uses (30_encoding R85, R86), and the fetch of an instruction
(40_dispatch R93, R98). -/

namespace Sys2Proof

/-! ## The bytes an instruction reads -/

/-- How many bytes the step of an instruction reads: its length, but for BRK, whose signature byte is not read
(42_special R116). -/
def Instr.bytesFetched (i : Instr) : Nat := if i = .brk then 1 else i.length

@[simp] theorem Mode.operand_mode (m : Mode) (b1 b2 : Byte) : (m.operand b1 b2).mode = m := by
  cases m <;> rfl

/-- An operand is assembled from its mode's bytes alone (30_encoding R86). -/
theorem Mode.operand_congr (m : Mode) {b1 b2 c1 c2 : Byte} (h1 : 0 < m.operandBytes → b1 = c1)
    (h2 : 1 < m.operandBytes → b2 = c2) : m.operand b1 b2 = m.operand c1 c2 := by
  obtain rfl := h1 (by cases m <;> decide)
  cases m with
  | abs | abx | aby => rw [h2 (by decide)]
  | izx | zp | imm | izy | zpx | zpy => rfl

theorem Mode.operandBytes_le (m : Mode) : m.operandBytes ≤ 2 := by cases m <;> decide

/-- A mode of a handler is one of its valid modes (30_encoding R84). -/
theorem CommonHandler.mode_valid {h : CommonHandler} {bbb : BitVec 3} {m : Mode} (hm : h.mode bbb = some m) :
    m ∈ h.validModes := by
  unfold CommonHandler.mode at hm
  split at hm
  · split at hm
    · next hc =>
      cases hm
      exact List.contains_iff_mem.mp hc
    · nomatch hm
  · nomatch hm

/-- An operand of a valid mode gives the handler's instruction; only an immediate can be refused. -/
theorem CommonHandler.instr_of_valid (h : CommonHandler) (o : Operand) (ho : o.mode ∈ h.validModes) :
    ∃ i, h.instr o = some i := by
  cases o with
  | imm v =>
    change Mode.imm ∈ h.validModes at ho
    cases h
    case sta | asl | rol | lsr | ror | stx | dec | inc | bit | sty => exact absurd ho (by decide)
    all_goals exact ⟨_, rfl⟩
  | mem m => cases h <;> exact ⟨_, rfl⟩

/-- A Common instruction reads its opcode and its mode's bytes (30_encoding R85). -/
theorem CommonHandler.bytesFetched_instr {h : CommonHandler} {o : Operand} {i : Instr} (hi : h.instr o = some i) :
    i.bytesFetched = 1 + o.mode.operandBytes := by
  cases o <;> cases h <;> cases hi <;> rfl

theorem branchTable_bytesFetched (sel : BitVec 3) (rel : Byte) : (branchTable sel rel).bytesFetched = 2 := by
  unfold branchTable
  split <;> rfl

theorem specialTable_bytesFetched (sel : BitVec 2) (op : Byte) :
    ((specialTable sel).getD (.illegal op)).bytesFetched = 1 := by
  unfold specialTable
  split <;> rfl

theorem impliedTable_bytesFetched (idx : BitVec 5) (op : Byte) :
    ((impliedTable idx).getD (.illegal op)).bytesFetched = 1 := by
  unfold impliedTable
  split <;> rfl

/-- The bytes a decoded instruction reads are its opcode and the operand bytes its handler fetches. -/
theorem bytesFetched_decodeOp (op b1 b2 : Byte) : (decodeOp op b1 b2).bytesFetched = 1 + operandBytes op := by
  unfold decodeOp operandBytes
  cases classify op with
  | jump ind => cases ind <;> rfl
  | jsr => rfl
  | special sel => exact specialTable_bytesFetched sel op
  | branch sel => exact branchTable_bytesFetched sel b1
  | implied idx => exact impliedTable_bytesFetched idx op
  | common idx bbb =>
    dsimp only
    cases commonTable idx with
    | none => rfl
    | some h =>
      dsimp only
      cases hm : h.mode bbb with
      | none => rfl
      | some m =>
        obtain ⟨i, hi⟩ := h.instr_of_valid (m.operand b1 b2) (by simpa using CommonHandler.mode_valid hm)
        simp [hi, CommonHandler.bytesFetched_instr hi]

theorem operandBytes_le (op : Byte) : operandBytes op ≤ 2 := by
  unfold operandBytes
  cases classify op with
  | jump | jsr | special | branch | implied =>
    dsimp only
    decide
  | common idx bbb =>
    dsimp only
    cases commonTable idx with
    | none => exact Nat.zero_le 2
    | some h =>
      dsimp only
      cases h.mode bbb with
      | none => exact Nat.zero_le 2
      | some m => exact m.operandBytes_le

/-- The decoder looks at no operand byte but those the handler fetches. -/
theorem decodeOp_congr (op : Byte) {b1 b2 c1 c2 : Byte} (h1 : 0 < operandBytes op → b1 = c1)
    (h2 : 1 < operandBytes op → b2 = c2) : decodeOp op b1 b2 = decodeOp op c1 c2 := by
  unfold operandBytes at h1 h2
  unfold decodeOp
  cases hc : classify op
  all_goals simp only [hc] at h1 h2
  case jump | jsr =>
    obtain rfl := h1 Nat.two_pos
    obtain rfl := h2 Nat.one_lt_two
    rfl
  case special | implied => rfl
  case branch =>
    obtain rfl := h1 Nat.one_pos
    rfl
  case common idx bbb =>
    dsimp only
    cases ht : commonTable idx with
    | none => rfl
    | some h =>
      simp only [ht] at h1 h2 ⊢
      cases hm : h.mode bbb with
      | none => rfl
      | some m =>
        simp only [hm] at h1 h2 ⊢
        rw [m.operand_congr h1 h2]

/-- What decoding three bytes gives is the instruction of the first, with the others its operand bytes. -/
theorem decodeOp_of_decode {op b1 b2 : Byte} {i : Instr} {rest : List Byte} (h : decode [op, b1, b2] = .ok (i, rest)) :
    decodeOp op b1 b2 = i := by
  simp only [decode] at h
  split at h
  · nomatch h
  · cases h
    rfl

/-! ## Illegal opcodes (30_encoding R87) -/

theorem operandBytes_illegal {op : Byte} (h : op ∈ illegalOpcodes) : operandBytes op = 0 := by
  revert op
  decide

theorem decodeOp_illegal {op : Byte} (h : op ∈ illegalOpcodes) (b1 b2 : Byte) : decodeOp op b1 b2 = .illegal op := by
  have hzero : ∀ op ∈ illegalOpcodes, decodeOp op 0 0 = .illegal op := by decide
  have hbytes := operandBytes_illegal h
  rw [decodeOp_congr op (c1 := 0) (c2 := 0) (by simp [hbytes]) (by simp [hbytes]), hzero op h]

end Sys2Proof

namespace Sys2Proof.Machine

/-! ## The fetch -/

/-- An opcode without operand bytes is fetched by its own read alone. -/
theorem fetch_of_operandBytes_zero (s : State) (h : operandBytes (fetchByte s).1 = 0) :
    fetch s = (decodeOp (fetchByte s).1 0 0, (fetchByte s).2) := by
  simp [fetch, h, fetchBytes]

/-- Fetching a byte of the reference bus's memory moves PC past it and does nothing else. -/
theorem fetchByte_plain (s : State) (hb : s.cfg.bus = .reference) (h : ppuRegAt s.cpu.pc = none) :
    fetchByte s = (s.peek s.cpu.pc, s.setPc (s.cpu.pc + 1)) := by
  simp [fetchByte, memRead_plain _ _ hb h]

theorem exec_illegal_report (op : Byte) (s : State) (h : s.cfg.illegalOpcodePolicy = .report) :
    exec (.illegal op) s = .fault (.illegalOpcode op (s.cpu.pc - 1) (s.setPc (s.cpu.pc - 1))) := by
  simp [exec, execIllegal, h]

theorem exec_illegal_nop (op : Byte) (s : State) (h : s.cfg.illegalOpcodePolicy = .nop) :
    exec (.illegal op) s = .next (s.setOutcome (.illegalAsNop op (s.cpu.pc - 1))) := by
  simp [exec, execIllegal, h]

/-- A step at an illegal opcode runs its handler after the opcode's own read; no operand byte is fetched (40_dispatch
R93, R96). -/
theorem cpuStep_illegal (op : Byte) (s : State) (h : op ∈ illegalOpcodes) (hf : (fetchByte s).1 = op) :
    cpuStep s = exec (.illegal op) ((memRead s.cpu.pc s).2.setPc (s.cpu.pc + 1)) := by
  subst hf
  simp only [cpuStep, fetch_of_operandBytes_zero s (operandBytes_illegal h), decodeOp_illegal h]
  simp [fetchByte]

/-- Settles O36: the handler's two outcomes, and a step at an illegal opcode by `cpuStep_illegal`. -/
theorem illegalOpcodeOutcome : Obligations.IllegalOpcodeOutcome := by
  intro op s
  refine ⟨operandBytes_illegal, exec_illegal_report op s, exec_illegal_nop op s,
    fun hop hf => ⟨fun hp => ?report, fun hp => ?nop⟩⟩
  case report =>
    have hstep : cpuStep s = .fault (.illegalOpcode op s.cpu.pc ((memRead s.cpu.pc s).2.setPc s.cpu.pc)) := by
      rw [cpuStep_illegal op s hop hf, exec_illegal_report op _ (by simpa only [State.setPc_cfg, memRead_cfg] using hp),
        State.setPc_cpu_pc, BitVec.add_sub_cancel, State.setPc_setPc]
    refine ⟨hstep, fun hb hr => ?_⟩
    rw [hstep, memRead_plain _ _ hb hr]
    rfl
  case nop =>
    rw [cpuStep_illegal op s hop hf, exec_illegal_nop op _ (by simpa only [State.setPc_cfg, memRead_cfg] using hp),
      State.setPc_cpu_pc, BitVec.add_sub_cancel]

end Sys2Proof.Machine
end

section
/-! SUPPORT. A step whose call is `cpu_step`: the bytes it fetches and the instruction it runs (40_dispatch R93, R98). -/

namespace Sys2Proof.Machine

/-! ## The bytes fetched -/

theorem fetchBytes_getD_zero {n : Nat} (s : State) (h : 0 < n) : (fetchBytes n s).1.getD 0 0 = (fetchByte s).1 := by
  cases n with
  | zero => omega
  | succ n => rfl

theorem fetchBytes_getD_one {n : Nat} (s : State) (h : 1 < n) :
    (fetchBytes n s).1.getD 1 0 = (fetchByte (fetchByte s).2).1 := by
  cases n with
  | zero => omega
  | succ n => exact fetchBytes_getD_zero _ (by omega)

/-- The fetch of an instruction gives what the decoder makes of the bytes that reading at PC gives, in order, and
reads its own bytes only. -/
theorem fetch_of_decode (s : State) {i : Instr} {rest : List Byte}
    (h : decode [(fetchByte s).1, (fetchByte (fetchByte s).2).1, (fetchByte (fetchByte (fetchByte s).2).2).1] =
      .ok (i, rest)) : fetch s = (i, (fetchBytes i.bytesFetched s).2) := by
  have hi := decodeOp_of_decode h
  have hfst : (fetch s).1 = i :=
    (decodeOp_congr _ (fetchBytes_getD_zero _) (fetchBytes_getD_one _)).trans hi
  have hsnd : (fetch s).2 = (fetchBytes i.bytesFetched s).2 := by
    rw [← hi, bytesFetched_decodeOp, Nat.add_comm]
    rfl
  exact Prod.ext hfst hsnd

/-- The state one, two or three fetches leave. -/
theorem fetchBytes_state_of_le_three {n : Nat} (s : State) (hpos : 1 ≤ n) (hle : n ≤ 3) :
    (fetchBytes n s).2 = if n = 1 then (fetchByte s).2 else if n = 2 then (fetchByte (fetchByte s).2).2
      else (fetchByte (fetchByte (fetchByte s).2).2).2 := by
  obtain rfl | rfl | rfl : n = 1 ∨ n = 2 ∨ n = 3 := by omega
  all_goals rfl

/-- Fetching from the reference bus's memory only moves PC past the bytes. -/
theorem fetchBytes_plain_state (n : Nat) (s : State) (hb : s.cfg.bus = .reference)
    (h : ∀ k, k < n → ppuRegAt (s.cpu.pc + BitVec.ofNat 16 k) = none) :
    (fetchBytes n s).2 = s.setPc (s.cpu.pc + BitVec.ofNat 16 n) := by
  induction n generalizing s with
  | zero => simp [fetchBytes, State.setPc]
  | succ n ih =>
    have hpc (k : Nat) : s.cpu.pc + 1 + BitVec.ofNat 16 k = s.cpu.pc + BitVec.ofNat 16 (k + 1) := by
      rw [Nat.add_comm k 1, BitVec.ofNat_add, BitVec.add_assoc]
      rfl
    have hfetch := fetchByte_plain s hb (by simpa using h 0 (Nat.succ_pos n))
    have hrest := ih (s.setPc (s.cpu.pc + 1)) hb fun k hk => by
      rw [State.setPc_cpu_pc, hpc]
      exact h (k + 1) (by omega)
    simp only [fetchBytes, hfetch, hrest, State.setPc_cpu_pc, State.setPc_setPc, hpc]

/-- The byte fetched after k others is the one the reference bus's memory holds k past PC. -/
theorem fetchByte_plain_after {k n : Nat} (s : State) (hk : k < n) (hb : s.cfg.bus = .reference)
    (h : ∀ k, k < n → ppuRegAt (s.cpu.pc + BitVec.ofNat 16 k) = none) :
    (fetchByte (fetchBytes k s).2).1 = s.peek (s.cpu.pc + BitVec.ofNat 16 k) := by
  rw [fetchBytes_plain_state k s hb fun j hj => h j (by omega),
    fetchByte_plain (s.setPc (s.cpu.pc + BitVec.ofNat 16 k)) hb (h k hk)]
  rfl

/-- A decoded instruction reads one, two or three bytes. -/
theorem bytesFetched_of_decode {op b1 b2 : Byte} {i : Instr} {rest : List Byte}
    (h : decode [op, b1, b2] = .ok (i, rest)) : 1 ≤ i.bytesFetched ∧ i.bytesFetched ≤ 3 := by
  have hlen := bytesFetched_decodeOp op b1 b2
  rw [decodeOp_of_decode h] at hlen
  have hle := operandBytes_le op
  omega

/-! ## The step -/

/-- The calls that follow a `cpu_step` do not depend on the outcome recorded before it. -/
theorem followUp_cpuStep (s t : State) (o : CallOutcome) :
    followUp .cpuStep s t =
      ppuSteps (3 * cycles (fetch (s.setOutcome o)).1 (fetch (s.setOutcome o)).2) ++ [.boundary] := by
  rw [State.setOutcome, fetch_withHost, cycles_withHost]
  rfl

/-- A step whose call is `cpu_step` runs what the fetch gives, in the state the fetch leaves. -/
theorem step_of_fetch (s : State) {i : Instr} {u : State} (hwf : s.cfg.wf) (hcall : s.nextCall = .cpuStep)
    (hfetch : fetch (s.dropCall.setOutcome .ok) = (i, u)) :
    step s = andThen (exec i u) fun t =>
      match s.host.schedule with
      | .open => .next t
      | .conventional => .next (t.enqueue (ppuSteps (3 * cycles i u) ++ [.boundary])) := by
  simp only [step, if_pos hwf, hcall, perform, runCall, cpuStep, followUp_cpuStep _ _ .ok, hfetch]
  rfl

/-- Settles O6: `step_of_fetch` with the fetch of `fetch_of_decode`; the clause on the reference bus by the plain
fetches. -/
theorem stepRunsDecodedInstruction : Obligations.StepRunsDecodedInstruction := by
  intro s i rest start f0 f1 f2 n fetched hwf hcall hdec
  have hfetch : fetch start = (i, (fetchBytes n start).2) := fetch_of_decode start hdec
  obtain ⟨hpos, hle⟩ : 1 ≤ n ∧ n ≤ 3 := bytesFetched_of_decode hdec
  have hfetched : (fetchBytes n start).2 = fetched := fetchBytes_state_of_le_three start hpos hle
  refine ⟨step_of_fetch s hwf hcall (hfetch.trans (by rw [hfetched])), fun hb hplain => ?_⟩
  have hstate := fetchBytes_plain_state n start hb hplain
  have hbyte (k : Nat) (hk : k < n) := fetchByte_plain_after start hk hb hplain
  refine ⟨?_, hbyte 1, hbyte 2, hfetched.symm.trans hstate⟩
  exact (hbyte 0 hpos).trans (by rw [BitVec.add_zero]; rfl)

end Sys2Proof.Machine
end

section
/-! SUPPORT. The encoding (30_encoding): a family with its index stands for one opcode byte, and what the decoder
makes of an opcode and its operand bytes is well-formed and keeps them. -/

namespace Sys2Proof

/-! ## The opcode of a family and its index (30_encoding R76, R81) -/

/-- The opcode byte that `classify` takes apart into a family and its index. -/
def Family.opcode : Family → Byte
  | .jump ind => if ind then 0x6C else 0x4C
  | .jsr => 0x20
  | .special sel => (0 : BitVec 1) ++ sel ++ (0 : BitVec 5)
  | .branch sel => sel ++ (0b10000 : BitVec 5)
  | .implied idx => idx.extractLsb' 1 4 ++ (0b10 : BitVec 2) ++ idx.extractLsb' 0 1 ++ (0 : BitVec 1)
  | .common idx bbb => commonOpcode (idx.extractLsb' 2 3) bbb (idx.extractLsb' 0 2)

/-- Whether the family's table has a handler at the index and, in the Common family, the mode is one of the
handler's (30_encoding R78 to R84). -/
def Family.handled : Family → Bool
  | .jump _ | .jsr | .branch _ => true
  | .special sel => (specialTable sel).isSome
  | .implied idx => (impliedTable idx).isSome
  | .common idx bbb => (commonTable idx).any fun h => (h.mode bbb).isSome

/-- The instruction of a family, its index and two operand bytes; `none` where there is no handler. -/
def Family.instr (f : Family) (b1 b2 : Byte) : Option Instr :=
  match f with
  | .jump ind => some (if ind then .jmpInd (mkWord b2 b1) else .jmpAbs (mkWord b2 b1))
  | .jsr => some (.jsr (mkWord b2 b1))
  | .special sel => specialTable sel
  | .branch sel => some (branchTable sel b1)
  | .implied idx => impliedTable idx
  | .common idx bbb => (commonTable idx).bind fun h => (h.mode bbb).bind fun m => h.instr (m.operand b1 b2)

theorem Family.opcode_classify (op : Byte) : (classify op).opcode = op := by
  revert op
  decide

/-- A family and its index are found again in the opcode they stand for. The special slot 1 is not: its opcode is
JSR's (42_special R119). -/
theorem Family.classify_opcode {f : Family} (hf : f.handled = true) : classify f.opcode = f := by
  cases f with
  | jump ind => cases ind <;> rfl
  | jsr => rfl
  | special sel => revert sel; decide
  | branch sel => revert sel; decide
  | implied idx => revert idx; decide
  | common idx bbb => revert idx bbb; decide

/-- The decoder is the family's table, with the illegal handler where the table has none. -/
theorem decodeOp_eq_instr (op b1 b2 : Byte) :
    decodeOp op b1 b2 = ((classify op).instr b1 b2).getD (.illegal op) := by
  unfold decodeOp
  cases classify op with
  | jump ind => cases ind <;> rfl
  | jsr | special | branch | implied => rfl
  | common idx bbb =>
    simp only [Family.instr]
    cases commonTable idx with
    | none => rfl
    | some h =>
      simp only [Option.bind_some]
      cases h.mode bbb <;> rfl

/-- There is an instruction where the table has a handler, whatever the operand bytes. -/
theorem Family.isSome_instr (f : Family) (b1 b2 : Byte) : (f.instr b1 b2).isSome = f.handled := by
  cases f with
  | jump | jsr | special | branch | implied => rfl
  | common idx bbb =>
    simp only [Family.instr, Family.handled]
    cases commonTable idx with
    | none => rfl
    | some h =>
      cases hm : h.mode bbb with
      | none => simp [hm]
      | some m =>
        obtain ⟨i, hi⟩ := h.instr_of_valid (m.operand b1 b2) (by simpa using CommonHandler.mode_valid hm)
        simp [hm, hi]

/-- The illegal opcodes are those whose family has no handler for them (30_encoding R87). -/
theorem mem_illegalOpcodes_iff (op : Byte) : op ∈ illegalOpcodes ↔ (classify op).handled = false := by
  revert op
  decide

/-! ## The Common family (30_encoding R81 to R84) -/

/-- The slot of a handler in the common table: `(aaa << 2) | cc`. -/
def CommonHandler.slot : CommonHandler → BitVec 5
  | .ora => 1
  | .asl => 2
  | .bit => 4
  | .and => 5
  | .rol => 6
  | .eor => 9
  | .lsr => 10
  | .adc => 13
  | .ror => 14
  | .sty => 16
  | .sta => 17
  | .stx => 18
  | .ldy => 20
  | .lda => 21
  | .ldx => 22
  | .cpy => 24
  | .cmp => 25
  | .dec => 26
  | .cpx => 28
  | .sbc => 29
  | .inc => 30

/-- The field `bbb` that selects a mode of a handler. -/
def CommonHandler.field (h : CommonHandler) (m : Mode) : BitVec 3 :=
  match h with
  | .ora | .and | .eor | .adc | .sta | .lda | .cmp | .sbc => bbbGroup1 m
  | .asl | .rol | .lsr | .ror | .stx | .ldx | .dec | .inc | .bit | .sty | .ldy | .cpy | .cpx => bbbGeneral m

@[simp] theorem CommonHandler.commonTable_slot (h : CommonHandler) : commonTable h.slot = some h := by
  cases h <;> rfl

theorem CommonHandler.slot_of_commonTable {idx : BitVec 5} {h : CommonHandler} (ht : commonTable idx = some h) :
    h.slot = idx := by
  have hslot : ∀ idx, ∀ h ∈ commonTable idx, h.slot = idx := by decide
  exact hslot idx h ht

theorem CommonHandler.mode_field (h : CommonHandler) {m : Mode} (hm : m ∈ h.validModes) :
    h.mode (h.field m) = some m := by
  revert m
  cases h <;> decide

theorem CommonHandler.field_of_mode {h : CommonHandler} {bbb : BitVec 3} {m : Mode} (hm : h.mode bbb = some m) :
    h.field m = bbb := by
  have hfield : ∀ bbb, ∀ m ∈ h.mode bbb, h.field m = bbb := by cases h <;> decide
  exact hfield bbb m hm

/-- A handler has no mode where the field's mode, if it has one, is not one of the handler's. -/
theorem CommonHandler.mode_eq_none_iff (h : CommonHandler) (bbb : BitVec 3) :
    h.mode bbb = none ↔ ∀ m, h.fieldMode bbb = some m → m ∉ h.validModes := by
  unfold CommonHandler.mode
  cases h.fieldMode bbb <;> simp

/-- An instruction of the Common family is well-formed where its mode is one of its handler's. -/
theorem CommonHandler.wf_instr {h : CommonHandler} {o : Operand} {i : Instr} (hi : h.instr o = some i) :
    i.wf = h.validModes.contains o.mode := by
  cases o <;> cases h <;> cases hi <;> rfl

theorem CommonHandler.opcode_instr {h : CommonHandler} {o : Operand} {i : Instr} (hi : h.instr o = some i) :
    i.opcode = (Family.common h.slot (h.field o.mode)).opcode := by
  cases o <;> cases h <;> cases hi <;> rfl

theorem CommonHandler.operandBytes_instr {h : CommonHandler} {o : Operand} {i : Instr} (hi : h.instr o = some i) :
    i.operandBytes = o.bytes := by
  cases o <;> cases h <;> cases hi <;> rfl

/-- The bytes of an assembled operand are the first of those it was assembled from (30_encoding R86). -/
theorem Mode.bytes_operand_prefix (m : Mode) (b1 b2 : Byte) : (m.operand b1 b2).bytes <+: [b1, b2] := by
  cases m <;> simp [Mode.operand, Operand.bytes, MemOperand.bytes]

/-- An operand is assembled again from its own bytes, whatever comes after them (30_encoding R86). -/
theorem Operand.operand_mode_bytes (o : Operand) (rest : List Byte) :
    o.mode.operand ((o.bytes ++ rest).getD 0 0) ((o.bytes ++ rest).getD 1 0) = o := by
  cases o with
  | imm v => rfl
  | mem m =>
    cases m with
    | abs w | abx w | aby w => simp [Operand.mode, MemOperand.mode, Mode.operand, Operand.bytes, MemOperand.bytes]
    | zp | zpx | zpy | izx | izy => rfl

/-! ## What the decoder gives (30_encoding R76 to R86) -/

/-- What an instruction keeps of the bytes it is decoded from. BRK keeps no operand byte: its signature byte is
skipped (42_special R116). -/
structure Instr.KeepsBytes (i : Instr) (op b1 b2 : Byte) : Prop where
  wf : i.wf = true
  opcode : i.opcode = op
  operandBytes : i ≠ .brk → i.operandBytes <+: [b1, b2]

theorem specialTable_keepsBytes {sel : BitVec 2} {i : Instr} (hi : specialTable sel = some i) (b1 b2 : Byte) :
    i.KeepsBytes (Family.special sel).opcode b1 b2 := by
  have htable : ∀ sel, ∀ i ∈ specialTable sel,
      i.wf = true ∧ i.opcode = (Family.special sel).opcode ∧ (i ≠ .brk → i.operandBytes = []) := by decide
  obtain ⟨hwf, hop, hbytes⟩ := htable sel i hi
  exact ⟨hwf, hop, fun hne => by simp [hbytes hne]⟩

theorem impliedTable_keepsBytes {idx : BitVec 5} {i : Instr} (hi : impliedTable idx = some i) (b1 b2 : Byte) :
    i.KeepsBytes (Family.implied idx).opcode b1 b2 := by
  have htable : ∀ idx, ∀ i ∈ impliedTable idx,
      i.wf = true ∧ i.opcode = (Family.implied idx).opcode ∧ i.operandBytes = [] := by decide
  obtain ⟨hwf, hop, hbytes⟩ := htable idx i hi
  exact ⟨hwf, hop, fun _ => by simp [hbytes]⟩

theorem branchTable_keepsBytes (sel : BitVec 3) (b1 b2 : Byte) :
    (branchTable sel b1).KeepsBytes (Family.branch sel).opcode b1 b2 := by
  have hrel : (branchTable sel b1).wf = true ∧ (branchTable sel b1).opcode = (branchTable sel 0).opcode ∧
      (branchTable sel b1).operandBytes = [b1] := by
    unfold branchTable
    split <;> exact ⟨rfl, rfl, rfl⟩
  have hop : ∀ sel, (branchTable sel 0).opcode = (Family.branch sel).opcode := by decide
  obtain ⟨hwf, hopcode, hbytes⟩ := hrel
  exact ⟨hwf, hopcode.trans (hop sel), fun _ => by simp [hbytes]⟩

/-- An instruction of the Common family keeps its opcode's slot and mode field, and its operand's bytes. -/
theorem CommonHandler.keepsBytes_instr {idx : BitVec 5} {bbb : BitVec 3} {h : CommonHandler} {m : Mode} {i : Instr}
    {b1 b2 : Byte} (ht : commonTable idx = some h) (hm : h.mode bbb = some m)
    (hi : h.instr (m.operand b1 b2) = some i) : i.KeepsBytes (Family.common idx bbb).opcode b1 b2 := by
  have hopcode := opcode_instr hi
  rw [Mode.operand_mode, slot_of_commonTable ht, field_of_mode hm] at hopcode
  refine ⟨?_, hopcode, fun _ => operandBytes_instr hi ▸ m.bytes_operand_prefix b1 b2⟩
  rw [wf_instr hi, Mode.operand_mode]
  exact List.contains_iff_mem.mpr (mode_valid hm)

/-- The instruction of a family keeps the family's opcode and the operand bytes. -/
theorem Family.keepsBytes_instr {f : Family} {b1 b2 : Byte} {i : Instr} (hi : f.instr b1 b2 = some i) :
    i.KeepsBytes f.opcode b1 b2 := by
  cases f with
  | jump ind => cases ind <;> cases hi <;> exact ⟨rfl, rfl, fun _ => by simp [Instr.operandBytes]⟩
  | jsr =>
    cases hi
    exact ⟨rfl, rfl, fun _ => by simp [Instr.operandBytes]⟩
  | special sel => exact specialTable_keepsBytes hi b1 b2
  | branch sel =>
    cases hi
    exact branchTable_keepsBytes sel b1 b2
  | implied idx => exact impliedTable_keepsBytes hi b1 b2
  | common idx bbb =>
    obtain ⟨h, ht, hh⟩ := Option.bind_eq_some_iff.mp hi
    obtain ⟨m, hm, hinstr⟩ := Option.bind_eq_some_iff.mp hh
    exact CommonHandler.keepsBytes_instr ht hm hinstr

theorem keepsBytes_decodeOp (op b1 b2 : Byte) : (decodeOp op b1 b2).KeepsBytes op b1 b2 := by
  rw [decodeOp_eq_instr]
  cases hi : (classify op).instr b1 b2 with
  | none =>
    have hop : op ∈ illegalOpcodes := by
      rw [mem_illegalOpcodes_iff, ← Family.isSome_instr _ b1 b2, hi]
      rfl
    exact ⟨List.contains_iff_mem.mpr hop, rfl, fun _ => List.nil_prefix⟩
  | some i => exact Family.opcode_classify op ▸ Family.keepsBytes_instr hi

/-! ## Lengths (30_encoding R85) -/

theorem Instr.length_encode (i : Instr) : (encode i).length = i.length := by
  cases i with
  | ora | and | eor | adc | lda | cmp | sbc | ldx | ldy | cpy | cpx =>
    simp [encode, Instr.operandBytes, Instr.length, Laws.EncodeLength.operand_bytes, Nat.add_comm]
  | sta | asl | rol | lsr | ror | stx | dec | inc | bit | sty =>
    simp [encode, Instr.operandBytes, Instr.length, Laws.EncodeLength.memOperand_bytes, Nat.add_comm]
  | _ => rfl

theorem decodeOp_eq_brk_iff (op b1 b2 : Byte) : decodeOp op b1 b2 = .brk ↔ op = 0x00 := by
  constructor
  · intro h
    rw [← (keepsBytes_decodeOp op b1 b2).opcode, h]
    rfl
  · rintro rfl
    rfl

theorem length_decodeOp (op b1 b2 : Byte) : (decodeOp op b1 b2).length = opLength op := by
  have hfetched := bytesFetched_decodeOp op b1 b2
  simp only [Instr.bytesFetched, decodeOp_eq_brk_iff] at hfetched
  unfold opLength
  split
  · next h => rw [(decodeOp_eq_brk_iff op b1 b2).mpr h]; rfl
  · next h => rwa [if_neg h] at hfetched

/-! ## Decoding what was encoded (30_encoding R74, R86) -/

/-- The opcode of a family decodes to the family's instruction. -/
theorem decodeOp_of_family {f : Family} {b1 b2 : Byte} {i : Instr} (hi : f.instr b1 b2 = some i) :
    decodeOp f.opcode b1 b2 = i := by
  have hf : f.handled = true := by
    rw [← f.isSome_instr b1 b2, hi]
    rfl
  rw [decodeOp_eq_instr, Family.classify_opcode hf, hi]
  rfl

/-- A Common instruction of a valid mode is decoded from its opcode and its operand's bytes. -/
theorem CommonHandler.decodeOp_instr (h : CommonHandler) (o : Operand) {i : Instr} (hi : h.instr o = some i)
    (hwf : i.wf = true) (rest : List Byte) :
    decodeOp i.opcode ((i.operandBytes ++ rest).getD 0 0) ((i.operandBytes ++ rest).getD 1 0) = i := by
  have hmode : h.mode (h.field o.mode) = some o.mode :=
    h.mode_field (List.contains_iff_mem.mp ((wf_instr hi).symm.trans hwf))
  rw [opcode_instr hi, operandBytes_instr hi]
  apply decodeOp_of_family
  simp only [Family.instr, commonTable_slot, Option.bind_some, hmode, Operand.operand_mode_bytes, hi]

theorem decodeOp_opcode {i : Instr} (hwf : i.wf = true) (rest : List Byte) :
    decodeOp i.opcode ((i.operandBytes ++ rest).getD 0 0) ((i.operandBytes ++ rest).getD 1 0) = i := by
  cases i with
  | jmpAbs w => exact decodeOp_of_family (f := .jump false) (by simp [Family.instr, Instr.operandBytes])
  | jmpInd w => exact decodeOp_of_family (f := .jump true) (by simp [Family.instr, Instr.operandBytes])
  | jsr w => exact decodeOp_of_family (f := .jsr) (by simp [Family.instr, Instr.operandBytes])
  | bpl rel => exact decodeOp_of_family (f := .branch 0) rfl
  | bmi rel => exact decodeOp_of_family (f := .branch 1) rfl
  | bvc rel => exact decodeOp_of_family (f := .branch 2) rfl
  | bvs rel => exact decodeOp_of_family (f := .branch 3) rfl
  | bcc rel => exact decodeOp_of_family (f := .branch 4) rfl
  | bcs rel => exact decodeOp_of_family (f := .branch 5) rfl
  | bne rel => exact decodeOp_of_family (f := .branch 6) rfl
  | beq rel => exact decodeOp_of_family (f := .branch 7) rfl
  | ora o => exact CommonHandler.decodeOp_instr .ora o rfl hwf rest
  | and o => exact CommonHandler.decodeOp_instr .and o rfl hwf rest
  | eor o => exact CommonHandler.decodeOp_instr .eor o rfl hwf rest
  | adc o => exact CommonHandler.decodeOp_instr .adc o rfl hwf rest
  | sta m => exact CommonHandler.decodeOp_instr .sta (.mem m) rfl hwf rest
  | lda o => exact CommonHandler.decodeOp_instr .lda o rfl hwf rest
  | cmp o => exact CommonHandler.decodeOp_instr .cmp o rfl hwf rest
  | sbc o => exact CommonHandler.decodeOp_instr .sbc o rfl hwf rest
  | asl m => exact CommonHandler.decodeOp_instr .asl (.mem m) rfl hwf rest
  | rol m => exact CommonHandler.decodeOp_instr .rol (.mem m) rfl hwf rest
  | lsr m => exact CommonHandler.decodeOp_instr .lsr (.mem m) rfl hwf rest
  | ror m => exact CommonHandler.decodeOp_instr .ror (.mem m) rfl hwf rest
  | stx m => exact CommonHandler.decodeOp_instr .stx (.mem m) rfl hwf rest
  | ldx o => exact CommonHandler.decodeOp_instr .ldx o rfl hwf rest
  | dec m => exact CommonHandler.decodeOp_instr .dec (.mem m) rfl hwf rest
  | inc m => exact CommonHandler.decodeOp_instr .inc (.mem m) rfl hwf rest
  | bit m => exact CommonHandler.decodeOp_instr .bit (.mem m) rfl hwf rest
  | sty m => exact CommonHandler.decodeOp_instr .sty (.mem m) rfl hwf rest
  | ldy o => exact CommonHandler.decodeOp_instr .ldy o rfl hwf rest
  | cpy o => exact CommonHandler.decodeOp_instr .cpy o rfl hwf rest
  | cpx o => exact CommonHandler.decodeOp_instr .cpx o rfl hwf rest
  | illegal op => exact decodeOp_illegal (List.contains_iff_mem.mp hwf) _ _
  | _ => rfl

theorem opLength_opcode {i : Instr} (hwf : i.wf = true) : opLength i.opcode = i.operandBytes.length + 1 := by
  have hdecode := decodeOp_opcode hwf []
  rw [← length_decodeOp, hdecode, ← i.length_encode]
  rfl

/-! ## The illegal opcodes (30_encoding R87) -/

theorem decodeOp_eq_illegal_iff (op b1 b2 : Byte) : decodeOp op b1 b2 = .illegal op ↔ op ∈ illegalOpcodes := by
  refine ⟨fun h => ?_, fun h => decodeOp_illegal h b1 b2⟩
  have hwf := (keepsBytes_decodeOp op b1 b2).wf
  rw [h] at hwf
  exact List.contains_iff_mem.mp hwf

theorem classify_ne_special_one (op : Byte) : classify op ≠ .special 1 := by
  revert op
  decide

theorem specialTable_isSome_iff (sel : BitVec 2) : (specialTable sel).isSome = true ↔ sel ≠ 1 := by
  revert sel
  decide

theorem impliedTable_isSome_eq_false_iff (idx : BitVec 5) :
    (impliedTable idx).isSome = false ↔ idx.toNat ∈ [3, 7, 11, 15, 27, 31] := by
  revert idx
  decide

theorem commonTable_eq_none_iff (idx : BitVec 5) :
    commonTable idx = none ↔ idx.toNat ∈ [0, 3, 7, 8, 11, 12, 15, 19, 23, 27, 31] := by
  revert idx
  decide

/-- A Common opcode has no handler where its slot is empty or its mode is none of the slot's (30_encoding R84). -/
theorem Family.handled_common_eq_false_iff (idx : BitVec 5) (bbb : BitVec 3) :
    (Family.common idx bbb).handled = false ↔
      commonTable idx = none ∨ ∃ h, commonTable idx = some h ∧ h.mode bbb = none := by
  simp only [Family.handled]
  cases commonTable idx <;> simp

end Sys2Proof

/-! ## The statements. They stand in a namespace of their own, so that none hides a definition it is named after. -/

namespace Sys2Proof.Encoding

/-- Settles O2: `decodeOp_opcode` gives the instruction, `opLength_opcode` what is left. -/
theorem decodeEncodeRoundTrip : Obligations.DecodeEncodeRoundTrip := by
  intro i rest hwf
  have hlong : ¬ (i.operandBytes ++ rest).length + 1 < opLength i.opcode := by
    rw [opLength_opcode hwf, List.length_append]
    omega
  rw [encode, List.cons_append, decode, if_neg hlong, decodeOp_opcode hwf, opLength_opcode hwf, Nat.add_sub_cancel,
    List.drop_left]

/-- Settles O3: `keepsBytes_decodeOp` and `length_decodeOp`; the bytes of the encoding are the first of those
decoded, and the length says which. -/
theorem decodedInstructionKeepsItsBytes : Obligations.DecodedInstructionKeepsItsBytes := by
  intro op b1 b2
  obtain ⟨hwf, hop, hbytes⟩ := keepsBytes_decodeOp op b1 b2
  have hlen := length_decodeOp op b1 b2
  refine ⟨hwf, hop, hlen, fun hne => ?_⟩
  have hprefix : encode (decodeOp op b1 b2) <+: [op, b1, b2] := by
    rw [encode, hop]
    exact (List.prefix_cons_inj op).mpr (hbytes hne)
  rw [← hlen, ← Instr.length_encode]
  exact List.prefix_iff_eq_take.mp hprefix

/-- Settles O4: the listed opcodes are those with no handler, and each family's table says where it has none. -/
theorem illegalOpcodes : Obligations.IllegalOpcodes := by
  refine ⟨rfl, fun op b1 b2 => ⟨(decodeOp_eq_illegal_iff op b1 b2).symm, ?_⟩⟩
  rw [mem_illegalOpcodes_iff]
  cases hc : classify op with
  | jump | jsr | branch => simp [Family.handled]
  | special sel =>
    have hsel : sel ≠ 1 := fun h => classify_ne_special_one op (h ▸ hc)
    simp [Family.handled, (specialTable_isSome_iff sel).mpr hsel]
  | implied idx => exact impliedTable_isSome_eq_false_iff idx
  | common idx bbb =>
    simp only [Family.handled_common_eq_false_iff, commonTable_eq_none_iff, CommonHandler.mode_eq_none_iff]

/-- Settles O5: the sizes are counted opcode by opcode; an index is within its table's bounds by its width. -/
theorem familySizes : Obligations.FamilySizes := by
  refine ⟨rfl, rfl, rfl, rfl, rfl, rfl, rfl, fun op => ?_⟩
  cases classify op with
  | jump | jsr => trivial
  | special sel => exact sel.isLt
  | branch sel => exact sel.isLt
  | implied idx => exact idx.isLt
  | common idx bbb => exact idx.isLt

end Sys2Proof.Encoding
end

section
/-! SUPPORT. Operands in memory and the stack (40_dispatch R99 to R106). -/

namespace Sys2Proof.Machine

/-- The address of izy is indexed by the Y the step starts with: the pointer's reads leave the registers. -/
theorem effectiveAddress_izy (a : Byte) (s : State) :
    effectiveAddress (.izy a) s = ((readPointer a s).1 + s.cpu.y.setWidth 16, (readPointer a s).2) := by
  simp only [effectiveAddress, (readPointer_frame a s).cpu]

/-- Settles O10: each mode's address by its definition, and what computing it leaves by `effectiveAddress_frame`. -/
theorem effectiveAddresses : Obligations.EffectiveAddresses := by
  intro s a w pointer
  refine ⟨rfl, rfl, rfl, rfl, rfl, rfl, rfl, effectiveAddress_izy a s, fun m => ?_⟩
  have hframe := effectiveAddress_frame m s
  exact ⟨hframe.cpu, hframe.toNoStore, hframe.pendingRead, effectiveAddress_state m s⟩

/-- Settles O11: the accesses are the definitions', and their frames are `readOperand_frame`, `store_frame` and
`modify_frame`. -/
theorem operandAccesses : Obligations.OperandAccesses := by
  intro m v f s ea old
  obtain ⟨hstore, hstoreRead⟩ := store_frame m v s
  obtain ⟨hmodify, hmodifyRead⟩ := modify_frame m f s
  exact ⟨rfl, rfl, readOperand_frame (.mem m) s, rfl, hstore, hstoreRead, rfl, hmodify, hmodifyRead⟩

/-- A word pushed and pulled back at once is the word, and S is what it was (40_dispatch R106). -/
theorem pullWord_pushWord (w : Word) (s : State) (h : s.cfg.standard) (hb : s.cfg.bus = .reference) :
    pullWord (pushWord w s) = (w, (pushWord w s).setS s.cpu.s) := by
  have hlo : s.cpu.s - 2 + 1 = s.cpu.s - 1 := by bv_omega
  have hhi : s.cpu.s - 2 + 2 = s.cpu.s := BitVec.sub_add_cancel ..
  have hne : s.cpu.s ≠ s.cpu.s - 1 := by bv_omega
  rw [pullWord_plain _ (by rwa [pushWord_cfg]) (by rwa [pushWord_cfg]), pushWord_cpu]
  simp only [pushWord_peek _ _ h hb, stackByte_inj, hlo, hhi, hne, if_true, if_false, mkWord_hiByte_loByte]

/-- Settles O12: a push by `push_eq`, a pull by `pull_eq`, and on the reference bus the round trip by
`pullWord_pushWord`. -/
theorem stackOperations : Obligations.StackOperations := by
  intro b w s h
  obtain ⟨hwrite, hread⟩ := push_pending b s h
  refine ⟨push_eq b s h, push_cpu b s, push_cpuOnly b s, hwrite, hread, pull_eq s h, rfl, rfl,
    fun hb => ⟨push_peek b s h hb, pull_plain s h hb, pullWord_plain s h hb, ?_⟩⟩
  rw [pullWord_pushWord w s h hb]
  exact ⟨rfl, by simp [State.setS, pushWord_cpu]⟩

end Sys2Proof.Machine
end

section
/-! SUPPORT. The adder and the comparison (40_dispatch R108, R109). -/

namespace Sys2Proof.Machine

/-- Bit 7 of a byte tells whether it is 128 or more. -/
theorem getLsbD_seven (x : Byte) : x.getLsbD 7 = decide (128 ≤ x.toNat) := x.msb_eq_decide

/-- A sign-bit test looks at bit 7. -/
theorem and_sign_ne_zero (x : Byte) : x &&& 0x80 ≠ 0 ↔ x.getLsbD 7 = true := by
  rw [show (0x80 : Byte) = BitVec.twoPow 8 7 from rfl, BitVec.and_twoPow]
  cases x.getLsbD 7 <;> decide

/-- The source's overflow formula: the result's sign differs from both operands' (40_dispatch R108). -/
theorem overflow_formula_iff (r a m : Byte) :
    (r ^^^ a) &&& (r ^^^ m) &&& 0x80 ≠ 0 ↔ r.getLsbD 7 ≠ a.getLsbD 7 ∧ r.getLsbD 7 ≠ m.getLsbD 7 := by
  rw [and_sign_ne_zero]
  simp

theorem addWithCarry_toNat (a m : Byte) (cin : Bool) :
    (addWithCarry a m cin).r.toNat = (a.toNat + m.toNat + cin.toNat) % 256 := BitVec.toNat_ofNat ..

theorem addWithCarry_overflow_iff (a m : Byte) (cin : Bool) :
    (addWithCarry a m cin).v = true ↔
      ((addWithCarry a m cin).r ^^^ a) &&& ((addWithCarry a m cin).r ^^^ m) &&& 0x80 ≠ 0 := bne_iff_ne

/-- The formula is true exactly where the signed sum does not fit a signed byte: the operands' signs agree, and the
sum's sign is not theirs. -/
theorem addWithCarry_overflow_iff_signed (a m : Byte) (cin : Bool) :
    (addWithCarry a m cin).v = true ↔
      a.toInt + m.toInt + (cin.toNat : Int) < -128 ∨ 127 < a.toInt + m.toInt + (cin.toNat : Int) := by
  have ha := a.isLt
  have hm := m.isLt
  have hc := cin.toNat_lt
  rw [addWithCarry_overflow_iff, overflow_formula_iff]
  simp only [getLsbD_seven, addWithCarry_toNat, BitVec.toInt_eq_toNat_cond, ne_eq, decide_eq_decide]
  omega

/-- Settles O13: the sum and the carry are the 9-bit sum's by definition; the formula as signed overflow is
`addWithCarry_overflow_iff_signed`. -/
theorem adderIsBinary : Obligations.AdderIsBinary := by
  intro a m cin sum
  exact ⟨addWithCarry_toNat a m cin, decide_eq_true_iff, addWithCarry_overflow_iff a m cin,
    addWithCarry_overflow_iff_signed a m cin⟩

/-- `Compare(r, m)` flag by flag (40_dispatch R109). -/
theorem State.flag_compare (s : State) (r m : Byte) (f : Flag) :
    (s.compare r m).flag f = match f with
      | .c => decide (m.toNat ≤ r.toNat)
      | .z => r == m
      | .n => (r - m).getLsbD 7
      | f => s.flag f := by
  cases f <;> simp [State.compare, State.flag, State.setFlag, getFlag_putFlag]

/-- Bit 7 of the difference, on integers. -/
theorem getLsbD_seven_sub (r m : Byte) :
    (r - m).getLsbD 7 = decide (128 ≤ ((r.toNat : Int) - (m.toNat : Int)) % 256) := by
  have hr := r.isLt
  have hm := m.isLt
  rw [getLsbD_seven, BitVec.toNat_sub, decide_eq_decide]
  omega

/-- An instruction that compares a register with its operand writes no register, and C, Z and N only of the flags. -/
theorem yields_compare {i : Instr} {o : Operand} {s : State} {r : Byte}
    (hexec : exec i s = .next ((readOperand o s).2.compare r (readOperand o s).1)) :
    Yields i s s.cpu
      (fun f => match f with
        | .c => decide ((readOperand o s).1.toNat ≤ r.toNat)
        | .z => decide (r = (readOperand o s).1)
        | .n => decide (128 ≤ ((r.toNat : Int) - ((readOperand o s).1.toNat : Int)) % 256)
        | f => s.flag f)
      (OperandRead o s) := by
  refine ⟨_, hexec, ?regs, fun f => ?flags, (readOperand_frame o s).setCpu _⟩
  case regs => simp [State.compare, State.setFlag]
  case flags =>
    rw [State.flag_compare]
    cases f with
    | z => rfl
    | n => exact getLsbD_seven_sub r _
    | c => rfl
    | v | u | b | d | i => exact readOperand_flag o s _

end Sys2Proof.Machine

namespace Sys2Proof

/-- The opcode of a handler's slot and a mode field decodes to the handler's instruction (30_encoding R81 to R84). -/
theorem CommonHandler.decodeOp_slot (h : CommonHandler) {bbb : BitVec 3} {m : Mode} {b1 b2 : Byte} {i : Instr}
    (hm : h.mode bbb = some m) (hi : h.instr (m.operand b1 b2) = some i) :
    decodeOp (Family.common h.slot bbb).opcode b1 b2 = i :=
  decodeOp_of_family (by simp [Family.instr, hm, hi])

theorem CommonHandler.mode_cmp (bbb : BitVec 3) : CommonHandler.mode .cmp bbb = some (modeGroup1 bbb) := by
  revert bbb
  decide

end Sys2Proof

namespace Sys2Proof.Machine

/-- Settles O17: the forms by the decoder's tables, the three comparisons by `yields_compare`. -/
theorem compareResults : Obligations.CompareResults := by
  refine ⟨fun bbb b1 b2 => CommonHandler.decodeOp_slot .cmp (CommonHandler.mode_cmp bbb) rfl,
    fun b1 b2 => ⟨rfl, rfl, rfl, ?_, ?_, rfl, rfl, rfl, ?_, ?_⟩,
    fun o s => ⟨yields_compare rfl, yields_compare rfl, yields_compare rfl⟩⟩
  all_goals exact decodeOp_illegal (by decide) b1 b2

end Sys2Proof.Machine
end

section
/-! SUPPORT. What an instruction reaches and how it ends (40_dispatch R97, 60_exceptions R240), and how a step ends
(60_exceptions R223, R224). -/

namespace Sys2Proof.Machine

/-! ## The CPU engine's operations -/

section

variable {s t : State}

protected theorem CpuOnly.setA (h : CpuOnly s t) {v : Byte} : CpuOnly s (t.setA v) := h.setCpu _

protected theorem CpuOnly.setX (h : CpuOnly s t) {v : Byte} : CpuOnly s (t.setX v) := h.setCpu _

protected theorem CpuOnly.setY (h : CpuOnly s t) {v : Byte} : CpuOnly s (t.setY v) := h.setCpu _

protected theorem CpuOnly.setS (h : CpuOnly s t) {v : Byte} : CpuOnly s (t.setS v) := h.setCpu _

protected theorem CpuOnly.setP (h : CpuOnly s t) {v : Byte} : CpuOnly s (t.setP v) := h.setCpu _

protected theorem CpuOnly.setPc (h : CpuOnly s t) {w : Word} : CpuOnly s (t.setPc w) := h.setCpu _

protected theorem CpuOnly.setFlag (h : CpuOnly s t) {f : Flag} {v : Bool} : CpuOnly s (t.setFlag f v) := h.setCpu _

protected theorem CpuOnly.setZN (h : CpuOnly s t) {r : Byte} : CpuOnly s (t.setZN r) := h.setFlag.setFlag

protected theorem CpuOnly.compare (h : CpuOnly s t) {r m : Byte} : CpuOnly s (t.compare r m) :=
  h.setFlag.setFlag.setFlag

protected theorem CpuOnly.memRead (h : CpuOnly s t) {a : Word} : CpuOnly s (memRead a t).2 :=
  h.trans (memRead_readsAt a t).toCpuOnly

protected theorem CpuOnly.memWrite (h : CpuOnly s t) {a : Word} {v : Byte} : CpuOnly s (memWrite a v t) :=
  h.trans (memWrite_storesAt a v t).toCpuOnly

protected theorem CpuOnly.read16 (h : CpuOnly s t) {a : Word} : CpuOnly s (read16 a t).2 := h.memRead.memRead

protected theorem CpuOnly.push (h : CpuOnly s t) {b : Byte} : CpuOnly s (push b t) := h.trans (push_cpuOnly b t)

protected theorem CpuOnly.pull (h : CpuOnly s t) : CpuOnly s (pull t).2 := h.setS.memRead

protected theorem CpuOnly.pushWord (h : CpuOnly s t) {w : Word} : CpuOnly s (pushWord w t) := h.push.push

protected theorem CpuOnly.pullWord (h : CpuOnly s t) : CpuOnly s (pullWord t).2 := h.pull.pull

protected theorem CpuOnly.readMem (h : CpuOnly s t) {m : MemOperand} : CpuOnly s (readMem m t).2 :=
  (h.trans (effectiveAddress_frame m t).toCpuOnly).memRead

protected theorem CpuOnly.readOperand (h : CpuOnly s t) {o : Operand} : CpuOnly s (readOperand o t).2 := by
  cases o with
  | imm => exact h
  | mem => exact h.readMem

protected theorem CpuOnly.store (h : CpuOnly s t) {m : MemOperand} {v : Byte} : CpuOnly s (store m v t) :=
  h.trans (store_frame m v t).1.toCpuOnly

protected theorem CpuOnly.modify (h : CpuOnly s t) {m : MemOperand} {f : Byte → Byte} : CpuOnly s (modify m f t).2 :=
  h.trans (modify_frame m f t).1.toCpuOnly

protected theorem CpuOnly.branchIf (h : CpuOnly s t) {c : Bool} {b : Byte} : CpuOnly s (branchIf c b t) := by
  unfold Machine.branchIf
  split
  · exact h.setPc
  · exact h

protected theorem CpuOnly.takeException (h : CpuOnly s t) {ret : Word} {b : Bool} {vector : Word} :
    CpuOnly s (takeException ret b vector t) := h.pushWord.push.setFlag.read16.setPc

protected theorem CpuOnly.returnFromException (h : CpuOnly s t) : CpuOnly s (returnFromException t) :=
  h.pull.setP.pullWord.setPc

protected theorem CpuOnly.cpuReset (h : CpuOnly s t) : CpuOnly s (cpuReset t) :=
  h.setS.setFlag.setFlag.setFlag.read16.setPc

protected theorem CpuOnly.fetchByte (h : CpuOnly s t) : CpuOnly s (fetchByte t).2 := h.memRead.setPc

protected theorem CpuOnly.fetchBytes (h : CpuOnly s t) {n : Nat} : CpuOnly s (fetchBytes n t).2 := by
  induction n generalizing t with
  | zero => exact h
  | succ n ih => exact ih h.fetchByte

protected theorem CpuOnly.fetch (h : CpuOnly s t) : CpuOnly s (fetch t).2 := h.fetchByte.fetchBytes

end

/-! ## Every legal instruction completes -/

/-- Settles O37: the operations of each instruction's meaning reach what `CpuOnly` allows, and none of them fails. -/
theorem legalInstructionsComplete : Obligations.LegalInstructionsComplete := by
  intro i s hlegal
  have h := CpuOnly.refl s
  cases i with
  | jmpAbs => exact ⟨_, rfl, h.setPc⟩
  | jmpInd => exact ⟨_, rfl, h.memRead.memRead.setPc⟩
  | jsr => exact ⟨_, rfl, h.pushWord.setPc⟩
  | brk => exact ⟨_, rfl, h.takeException⟩
  | rti => exact ⟨_, rfl, h.returnFromException⟩
  | rts => exact ⟨_, rfl, h.pullWord.setPc⟩
  | bpl | bmi | bvc | bvs | bcc | bcs | bne | beq => exact ⟨_, rfl, h.branchIf⟩
  | php | pha => exact ⟨_, rfl, h.push⟩
  | plp => exact ⟨_, rfl, h.pull.setP⟩
  | pla => exact ⟨_, rfl, h.pull.setA.setZN⟩
  | clc | sec | cli | sei | clv | cld | sed => exact ⟨_, rfl, h.setFlag⟩
  | tax | tsx | inx | dex => exact ⟨_, rfl, h.setX.setZN⟩
  | tay | iny | dey => exact ⟨_, rfl, h.setY.setZN⟩
  | txa | tya => exact ⟨_, rfl, h.setA.setZN⟩
  | txs => exact ⟨_, rfl, h.setS⟩
  | aslA | rolA | lsrA | rorA => exact ⟨_, rfl, h.setA.setFlag.setZN⟩
  | nop => exact ⟨_, rfl, h⟩
  | ora | and | eor | lda => exact ⟨_, rfl, h.readOperand.setA.setZN⟩
  | adc | sbc => exact ⟨_, rfl, h.readOperand.setA.setFlag.setFlag.setZN⟩
  | cmp | cpy | cpx => exact ⟨_, rfl, h.readOperand.compare⟩
  | ldx => exact ⟨_, rfl, h.readOperand.setX.setZN⟩
  | ldy => exact ⟨_, rfl, h.readOperand.setY.setZN⟩
  | sta | stx | sty => exact ⟨_, rfl, h.store⟩
  | asl | rol | lsr | ror => exact ⟨_, rfl, h.modify.setFlag.setZN⟩
  | dec | inc => exact ⟨_, rfl, h.modify.setZN⟩
  | bit => exact ⟨_, rfl, h.readMem.setFlag.setFlag.setFlag⟩
  | illegal op => exact absurd rfl (hlegal op)

/-! ## What no call changes -/

/-- The configuration and the schedule flag are the same (log 7). -/
structure SameSetup (s t : State) : Prop where
  cfg      : t.cfg = s.cfg
  schedule : t.host.schedule = s.host.schedule

section

variable {s t u : State}

theorem SameSetup.refl (s : State) : SameSetup s s := ⟨rfl, rfl⟩

theorem SameSetup.trans (h : SameSetup s t) (k : SameSetup t u) : SameSetup s u :=
  ⟨k.cfg.trans h.cfg, k.schedule.trans h.schedule⟩

theorem CpuOnly.sameSetup (h : CpuOnly s t) : SameSetup s t := ⟨h.cfg, congrArg _ h.host⟩

theorem PpuSide.sameSetup (h : PpuSide s t) : SameSetup s t := ⟨h.cfg, congrArg _ h.host⟩

end

theorem cpuNmi_sameSetup (s : State) : SameSetup s (cpuNmi s) := (CpuOnly.refl s).takeException.sameSetup

theorem cpuReset_sameSetup (s : State) : SameSetup s (cpuReset s) := (CpuOnly.refl s).cpuReset.sameSetup

theorem cpuIrq_sameSetup (s : State) : SameSetup s (cpuIrq s) := by
  unfold cpuIrq
  split
  · exact ⟨rfl, rfl⟩
  · exact (CpuOnly.refl s).takeException.sameSetup

theorem chrWrite_sameSetup (a : Nat) (v : Byte) (s : State) : SameSetup s (chrWrite a v s) := by
  rw [chrWrite_frame]
  exact ⟨rfl, rfl⟩

theorem deliverReset_sameSetup (k : ResetKind) (s : State) : SameSetup s (deliverReset k s) := by
  have hserved : SameSetup s { s with host := { s.host with resetRequest := none } } := ⟨rfl, rfl⟩
  have hreset := hserved.trans (cpuReset_sameSetup _)
  cases k with
  | cpu => exact hreset
  | console => exact hreset.trans ⟨rfl, rfl⟩

theorem boundary_sameSetup (s : State) : SameSetup s (boundary s) := by
  have hserved : SameSetup s { s with host := { s.host with nmiPending := false } } := ⟨rfl, rfl⟩
  unfold boundary
  split
  · exact SameSetup.refl s
  · exact deliverReset_sameSetup _ s
  · exact hserved.trans (cpuNmi_sameSetup _)
  · exact cpuIrq_sameSetup s

/-! ## How a call ends -/

/-- What a call made in state s can end in (60_exceptions R223, R224): a state with the setup of s, or one of the two
failures, each with the state it leaves. -/
def CallEnds (c : Call) (s : State) : Host.Outcome State Fault Refusal → Prop
  | .next t => SameSetup s t
  | .fault e =>
    (∃ op, e = .illegalOpcode op s.cpu.pc ((fetchByte s).2.setPc s.cpu.pc) ∧ (fetchByte s).1 = op ∧
      op ∈ illegalOpcodes ∧ s.cfg.illegalOpcodePolicy = .report ∧ c = .cpuStep) ∨
    (∃ a : Word, e = .ppuFatal a s ∧ s.cfg.ppuSpaceSize ≤ a.toNat ∧ c = .ppuStep)
  | .refused _ => False

/-- What is done after a completed call, where it cannot fail and keeps the setup, ends as the call does. -/
theorem CallEnds.andThen_next {c : Call} {s : State} {o : Host.Outcome State Fault Refusal}
    {f : State → Host.Outcome State Fault Refusal} (h : CallEnds c s o)
    (hf : ∀ t, ∃ u, f t = .next u ∧ SameSetup t u) : CallEnds c s (andThen o f) := by
  cases o with
  | next t =>
    obtain ⟨u, hu, hsame⟩ := hf t
    simp only [andThen, hu]
    exact SameSetup.trans h hsame
  | fault => exact h
  | refused => exact h

/-- Where the fetch gives the illegal handler, the byte fetched is its opcode, an illegal one (30_encoding R87). -/
theorem fetch_eq_illegal {s : State} {op : Byte} (h : (fetch s).1 = .illegal op) :
    (fetchByte s).1 = op ∧ op ∈ illegalOpcodes := by
  have hdecode : decodeOp (fetchByte s).1 ((fetchBytes (operandBytes (fetchByte s).1) (fetchByte s).2).1.getD 0 0)
      ((fetchBytes (operandBytes (fetchByte s).1) (fetchByte s).2).1.getD 1 0) = .illegal op := h
  have hop : (fetchByte s).1 = op := by
    rw [← (keepsBytes_decodeOp (fetchByte s).1 _ _).opcode, hdecode]
    rfl
  rw [hop] at hdecode
  exact ⟨hop, (decodeOp_eq_illegal_iff op _ _).mp hdecode⟩

theorem cpuStep_illegal_ends {s : State} {op : Byte} (hop : op ∈ illegalOpcodes) (hf : (fetchByte s).1 = op) :
    CallEnds .cpuStep s (cpuStep s) := by
  obtain ⟨-, -, -, hstep⟩ := illegalOpcodeOutcome op s
  obtain ⟨hreport, hnop⟩ := hstep hop hf
  cases hp : s.cfg.illegalOpcodePolicy with
  | report =>
    rw [(hreport hp).1]
    exact .inl ⟨op, rfl, hf, hop, hp, rfl⟩
  | nop =>
    rw [hnop hp]
    exact (CpuOnly.refl s).memRead.setPc.sameSetup.trans ⟨rfl, rfl⟩

theorem cpuStep_ends (s : State) : CallEnds .cpuStep s (cpuStep s) := by
  by_cases hill : ∃ op, (fetch s).1 = .illegal op
  · obtain ⟨op, h⟩ := hill
    obtain ⟨hf, hop⟩ := fetch_eq_illegal h
    exact cpuStep_illegal_ends hop hf
  · obtain ⟨t, ht, hcpu⟩ := legalInstructionsComplete (fetch s).1 (fetch s).2 (not_exists.mp hill)
    rw [cpuStep, ht]
    exact ((CpuOnly.refl s).fetch.trans hcpu).sameSetup

/-- A load fails only past the end of the PPU space (48 R182). -/
theorem ppuLoad_error {a b : Word} {s : State} (h : ppuLoad a s = .error b) : s.cfg.ppuSpaceSize ≤ b.toNat := by
  unfold ppuLoad at h
  split at h
  · next hsize =>
    cases h
    exact hsize
  · split at h <;> nomatch h

/-- A store fails only past the end of the PPU space (48 R182). -/
theorem ppuStore_error {a b : Word} {v : Byte} {s : State} (h : ppuStore a v s = .error b) :
    s.cfg.ppuSpaceSize ≤ b.toNat := by
  unfold ppuStore at h
  split at h
  · next hsize =>
    cases h
    exact hsize
  · split at h <;> nomatch h

/-- Of the writes only DATA's can fail, by its store (48 R194, R199). -/
theorem serviceWrite_error {r : PpuReg} {v : Byte} {s : State} {a : Word} (h : serviceWrite r v s = .error a) :
    s.cfg.ppuSpaceSize ≤ a.toNat := by
  cases r with
  | data =>
    simp only [serviceWrite] at h
    split at h
    · next hstore =>
      cases h
      exact ppuStore_error hstore
    · nomatch h
  | control | mask | status | oamAddr | oamData | scroll | address => nomatch h

/-- Of the reads only DATA's can fail, by its load (48 R195, R199). -/
theorem serviceRead_error {r : PpuReg} {s : State} {a : Word} (h : serviceRead r s = .error a) :
    s.cfg.ppuSpaceSize ≤ a.toNat := by
  cases r with
  | data =>
    simp only [serviceRead] at h
    split at h
    · next hload =>
      cases h
      exact ppuLoad_error hload
    · nomatch h
  | control | mask | status | oamAddr | oamData | scroll | address => nomatch h

theorem takeWrite_error {s : State} {a : Word} (h : takeWrite s = .error a) : s.cfg.ppuSpaceSize ≤ a.toNat := by
  unfold takeWrite at h
  split at h
  · nomatch h
  · exact serviceWrite_error (s := { s with bus := { s.bus with pendingWrite := none } }) h

theorem takeRead_error {s : State} {a : Word} (h : takeRead s = .error a) : s.cfg.ppuSpaceSize ≤ a.toNat := by
  unfold takeRead at h
  split at h
  · nomatch h
  · exact serviceRead_error (s := { s with bus := { s.bus with pendingRead := none } }) h

theorem services_error {s : State} {a : Word} (h : services s = .error a) : s.cfg.ppuSpaceSize ≤ a.toNat := by
  unfold services at h
  split at h
  · next hw =>
    cases h
    exact takeWrite_error hw
  · next t ht =>
    rw [← (takeWrite_frame s t ht).1.cfg]
    exact takeRead_error h

theorem ppuStep_ends (s : State) : CallEnds .ppuStep s (ppuStep s) := by
  cases hs : services s with
  | error a =>
    rw [show ppuStep s = .fault (.ppuFatal a s) by simp only [ppuStep, hs]]
    exact .inr ⟨a, rfl, services_error hs, rfl⟩
  | ok t =>
    have hstep : ppuStep s = .next (publishStatus (tick t)) := by simp only [ppuStep, hs]
    rw [hstep]
    exact (ppuStep_frame s _ hstep).1.sameSetup

theorem runCall_ends (c : Call) (s0 : State) : CallEnds c (s0.setOutcome .ok) (runCall c s0) := by
  cases c with
  | cpuStep => exact cpuStep_ends _
  | ppuStep => exact (ppuStep_ends _).andThen_next fun t => ⟨_, rfl, rfl, rfl⟩
  | cpuNmi => exact cpuNmi_sameSetup _
  | cpuIrq => exact cpuIrq_sameSetup _
  | cpuReset => exact cpuReset_sameSetup _
  | boundary => exact boundary_sameSetup _
  | ppuReset | oamDma | ppuResetFrames | busReset | setIrqLine | requestReset | hostSetPc | hostSetExt =>
    exact ⟨rfl, rfl⟩
  | hostWrite => exact (CpuOnly.refl _).memWrite.sameSetup
  | hostChrWrite a v =>
    show SameSetup _ (if _ then _ else _)
    split
    · exact chrWrite_sameSetup _ v _
    · exact SameSetup.refl _

theorem perform_ends (c : Call) (s : State) : CallEnds c (s.setOutcome .ok) (perform c s) := by
  refine (runCall_ends c s).andThen_next fun t => ?_
  split
  · exact ⟨_, rfl, SameSetup.refl t⟩
  · exact ⟨_, rfl, rfl, rfl⟩

/-- Settles O59: an ill-formed configuration is refused; every other step is its call, which ends as `perform_ends`
says. -/
theorem stepFailures : Obligations.StepFailures := by
  intro s start
  by_cases hwf : s.cfg.wf
  · have hends : CallEnds s.nextCall start (step s) := by
      rw [step, if_pos hwf]
      exact perform_ends _ _
    refine ⟨fun e he => ?_, fun e he => ?_, fun t ht => ?_⟩
    · rw [he] at hends
      exact hends
    · rw [he] at hends
      exact hends.elim
    · rw [ht] at hends
      exact ⟨hends.cfg, hends.schedule⟩
  · have hstep : step s = .refused .illFormedConfig := if_neg hwf
    simp [hstep, hwf]

end Sys2Proof.Machine
end

section
/-! SUPPORT. The Jump family (41_jump R113, R114). -/

namespace Sys2Proof.Machine

/-- A read after others that stored nothing is the last read of them all. -/
theorem ReadsAt.after_reads {a : Word} {s u t : State} (h : NoStore s u) (k : ReadsAt a u u t) : ReadsAt a u s t :=
  ⟨h.trans k.toNoStore, k.pendingRead, k.ext⟩

/-- An instruction that ends by setting PC, in a state with the registers of the start, changes no other register
and no flag. -/
theorem yields_setPc {i : Instr} {s u : State} {w : Word} {frame : State → Prop}
    (hexec : exec i s = .next (u.setPc w)) (hcpu : u.cpu = s.cpu) (hframe : frame (u.setPc w)) :
    Yields i s { s.cpu with pc := w } s.flag frame := by
  refine ⟨_, hexec, ?regs, fun f => ?flags, hframe⟩
  case regs => simp only [State.setPc, hcpu]
  case flags => simp only [State.flag, State.setPc, hcpu]

/-- Settles O29: the forms by the Jump family's decoding; each jump ends by setting PC, the absolute one with no
access before it, the indirect one after its two reads, which leave the registers as they are. -/
theorem jumpResults : Obligations.JumpResults := by
  refine ⟨fun b1 b2 => ⟨decodeOp_of_family (f := .jump false) rfl, decodeOp_of_family (f := .jump true) rfl⟩,
    fun w s => ?_⟩
  intro ha lo hi
  have hreads : ReadsAt ha lo.2 s hi.2 :=
    (memRead_readsAt ha lo.2).after_reads (memRead_readsAt w s).toNoStore
  have hcpu : hi.2.cpu = s.cpu := (memRead_cpu ha lo.2).trans (memRead_cpu w s)
  exact ⟨yields_setPc rfl rfl ((NoAccess.refl s).setCpu _), yields_setPc rfl hcpu (hreads.setCpu _)⟩

end Sys2Proof.Machine
end

section
/-! SUPPORT. The Special family (42_special R115 to R118): JSR, BRK, RTI and RTS, and that the returns undo the
entries, interrupts' included (60_exceptions R225 to R227). -/

namespace Sys2Proof.Machine

/-! ## Reads of the stack page -/

/-- From s to u there were only reads of the stack page (40_dispatch R104): they store and record nothing, and on the
reference bus they change nothing at all. -/
structure StackReads (s u : State) : Prop extends NoStore s u where
  cpu         : u.cpu = s.cpu
  pendingRead : u.bus.pendingRead = s.bus.pendingRead
  plain       : s.cfg.bus = .reference → u = s

theorem StackReads.refl (s : State) : StackReads s s := ⟨NoStore.refl s, rfl, rfl, fun _ => rfl⟩

protected theorem StackReads.memRead {s u : State} (h : StackReads s u) (x : Byte) :
    StackReads s (memRead (stackByte x) u).2 := by
  refine ⟨h.toNoStore.trans (memRead_readsAt _ u).toNoStore, (memRead_cpu _ u).trans h.cpu, ?pendingRead,
    fun hb => ?plain⟩
  case pendingRead =>
    rw [memRead_pendingRead, readRecorded, ppuRegAt_stackByte]
    exact h.pendingRead
  case plain => rw [h.plain hb, memRead_plain _ s hb (ppuRegAt_stackByte x)]

theorem StackReads.noAccess {s u : State} (h : StackReads s u) (hb : s.cfg.bus = .reference) : NoAccess s u := by
  rw [h.plain hb]
  exact NoAccess.refl s

/-! ## JSR and RTS -/

/-- An instruction that ends with the registers given, P as it was, changes no flag. -/
theorem yields_keeping_flags {i : Instr} {s t : State} {regs : Cpu} {frame : State → Prop}
    (hexec : exec i s = .next t) (hcpu : t.cpu = regs) (hp : regs.p = s.cpu.p) (hframe : frame t) :
    Yields i s regs s.flag frame := by
  refine ⟨t, hexec, ?regs, fun f => ?flags, hframe⟩
  case regs => rw [hcpu]
  case flags => rw [State.flag, State.flag, hcpu, hp]

/-- The bytes after a word's push, in the order of the two stores (40_dispatch R105). -/
theorem pushWord_peek_high_first (w : Word) (s : State) (h : s.cfg.standard) (hb : s.cfg.bus = .reference) (a : Word) :
    (pushWord w s).peek a =
      if a = stackByte s.cpu.s then hiByte w
      else if a = stackByte (s.cpu.s - 1) then loByte w
      else s.peek a := by
  have hne : s.cpu.s ≠ s.cpu.s - 1 := by bv_omega
  rw [pushWord_peek w s h hb]
  by_cases hhi : a = stackByte s.cpu.s
  · subst hhi
    simp only [stackByte_inj, hne, if_true, if_false]
  · rw [if_neg hhi, if_neg hhi]

/-- RTS is the two reads of `pullWord_eq`, then S and PC (42_special R118). -/
theorem exec_rts (s : State) (h : s.cfg.standard) :
    let lo := memRead (stackByte (s.cpu.s + 1)) s
    let hi := memRead (stackByte (s.cpu.s + 2)) lo.2
    exec .rts s = .next ((hi.2.setS (s.cpu.s + 2)).setPc (mkWord hi.1 lo.1 + 1)) := by
  show Host.Outcome.next ((pullWord s).2.setPc ((pullWord s).1 + 1)) = _
  rw [pullWord_eq s h]

/-- Settles O30: JSR leaves what the push of its return address does, by the laws of `pushWord`, and RTS what its two
reads of the stack page do. -/
theorem subroutineResults : Obligations.SubroutineResults := by
  refine ⟨fun _ _ => ⟨decodeOp_of_family (f := .jsr) rfl, decodeOp_of_family (f := .special 3) rfl⟩,
    fun target s h => ?_⟩
  intro ret lo hi
  have hreads : StackReads s hi.2 := ((StackReads.refl s).memRead _).memRead _
  refine ⟨yields_keeping_flags rfl ?jsr_cpu rfl ?jsr_frame, yields_keeping_flags (exec_rts s h) ?rts_cpu rfl ?rts_frame⟩
  case jsr_cpu => rw [State.setPc, pushWord_cpu]
  case jsr_frame =>
    obtain ⟨hwrite, hread⟩ := pushWord_pending ret s h
    have hbus := congrArg State.bus (pushWord_eq ret s h)
    exact ⟨(CpuOnly.refl s).pushWord.setPc, hbus, hwrite, hread, pushWord_peek_high_first ret s h⟩
  case rts_cpu => rw [State.setPc, State.setS, hreads.cpu]
  case rts_frame =>
    exact ⟨hreads.toNoStore.setCpu _, rfl, hreads.pendingRead, fun hb => (hreads.noAccess hb).setCpu _⟩

/-! ## The entries -/

theorem brk_entered (s : State) (h : s.cfg.standard) :
    ∃ t, exec .brk s = .next t ∧ Entered (s.cpu.pc + 1) true 0xFFFE s t := by
  refine ⟨_, rfl, ?_⟩
  rw [standard_vectorIrq h]
  exact takeException_entered _ _ _ s h (by decide)

theorem cpuNmi_entered (s : State) (h : s.cfg.standard) : Entered s.cpu.pc false 0xFFFA s (cpuNmi s) := by
  rw [cpuNmi, standard_vectorNmi h]
  exact takeException_entered _ _ _ s h (by decide)

/-- An IRQ that P.I does not mask is entered (60_exceptions R227). -/
theorem cpuIrq_entered (s : State) (h : s.cfg.standard) (hi : s.flag .i = false) :
    Entered s.cpu.pc false 0xFFFE s (cpuIrq s) := by
  rw [cpuIrq, hi, standard_vectorIrq h]
  exact takeException_entered _ _ _ s h (by decide)

/-- Settles O31: BRK is the entry with the pushed bit 4 set, by `brk_entered`. -/
theorem brkResult : Obligations.BrkResult :=
  ⟨fun _ _ => ⟨decodeOp_of_family (f := .special 0) rfl, rfl⟩, brk_entered⟩

/-! ## RTI -/

/-- Settles O32: the three reads of `returnFromException_eq`; the flags are those of the pulled byte by
`getFlag_pulledP`. -/
theorem rtiResult : Obligations.RtiResult := by
  refine ⟨fun b1 b2 => decodeOp_of_family (f := .special 2) rfl, fun s h => ?_⟩
  intro p lo hi
  have hreads : StackReads s hi.2 := (((StackReads.refl s).memRead _).memRead _).memRead _
  exact ⟨_, congrArg Host.Outcome.next (returnFromException_eq s h), rfl, getFlag_pulledP p.1,
    hreads.toNoStore.setCpu _, rfl, hreads.pendingRead, fun hb => (hreads.noAccess hb).setCpu _⟩

/-! ## The returns undo the entries -/

theorem memRead_setPc (a w : Word) (s : State) :
    memRead a (s.setPc w) = ((memRead a s).1, (memRead a s).2.setPc w) := by
  simp only [State.setPc, memRead_withCpu, memRead_cpu]

theorem pull_setPc (w : Word) (s : State) : pull (s.setPc w) = ((pull s).1, (pull s).2.setPc w) :=
  memRead_setPc (s.setS (s.cpu.s + 1)).stackAddr w (s.setS (s.cpu.s + 1))

/-- Pulling a word does not look at PC. -/
theorem pullWord_setPc (w : Word) (s : State) :
    pullWord (s.setPc w) = ((pullWord s).1, (pullWord s).2.setPc w) := by
  simp only [pullWord, pull_setPc]

/-- RTS undoes JSR: the word pulled is the word pushed, PC - 1, and RTS adds the one (42_special R115, R118). -/
theorem rts_undoes_jsr (target : Word) (s : State) (h : s.cfg.standard) (hb : s.cfg.bus = .reference) :
    ∃ t u, exec (.jsr target) s = .next t ∧ exec .rts t = .next u ∧ u.cpu = s.cpu := by
  refine ⟨_, _, rfl, rfl, ?_⟩
  have hret : s.cpu.pc - 1 + 1 = s.cpu.pc := BitVec.sub_add_cancel ..
  rw [pullWord_setPc, pullWord_pushWord _ s h hb]
  simp only [State.setPc, State.setS, pushWord_cpu, hret]

/-- A pushed P, pulled back, is P, where its stored bits 5 and 4 are 1 and 0 (40_dispatch R112). -/
theorem pulledP_pushedP {c : Cpu} (h : c.statusOk) (b : Bool) : pulledP (pushedP c.p b) = c.p := by
  obtain ⟨hu, hbreak⟩ := h
  apply eq_of_getFlag
  intro f
  rw [getFlag_pulledP]
  cases f with
  | u => exact hu.symm
  | b => exact hbreak.symm
  | n | v | d | i | z | c => exact getFlag_pushedP c.p b _

/-- The three stack bytes of an entry on the reference bus: what it pushed, each at its own address. -/
theorem Entered.pushed {ret : Word} {b : Bool} {vector : Word} {s t : State} (he : Entered ret b vector s t)
    (hb : s.cfg.bus = .reference) :
    t.peek (stackByte (s.cpu.s - 2)) = pushedP s.cpu.p b ∧ t.peek (stackByte (s.cpu.s - 1)) = loByte ret ∧
      t.peek (stackByte s.cpu.s) = hiByte ret := by
  have h10 : s.cpu.s - 1 ≠ s.cpu.s := by bv_omega
  have h20 : s.cpu.s - 2 ≠ s.cpu.s := by bv_omega
  have h21 : s.cpu.s - 2 ≠ s.cpu.s - 1 := by bv_omega
  simp only [he.bytes hb, stackByte_inj, h10, h20, h21, if_true, if_false, pushedP_eq, and_self]

/-- RTI undoes an entry: the three bytes it pulls are the three that the entry pushed (42_special R117). -/
theorem rti_undoes_entry {ret : Word} {b : Bool} {vector : Word} {s t : State} (h : s.cfg.standard)
    (hb : s.cfg.bus = .reference) (hstatus : s.cpu.statusOk) (he : Entered ret b vector s t) :
    ∃ u, exec .rti t = .next u ∧ u.cpu = { s.cpu with pc := ret } := by
  refine ⟨_, rfl, ?_⟩
  obtain ⟨hp, hlo, hhi⟩ := he.pushed hb
  have hs : t.cpu.s = s.cpu.s - 3 := by rw [he.regs]
  have h1 : s.cpu.s - 3 + 1 = s.cpu.s - 2 := by bv_omega
  have h2 : s.cpu.s - 3 + 2 = s.cpu.s - 1 := by bv_omega
  have h3 : s.cpu.s - 3 + 3 = s.cpu.s := BitVec.sub_add_cancel ..
  rw [returnFromException_plain t (by rwa [he.cfg]) (by rwa [he.cfg]), hs, h1, h2, h3, hp, hlo, hhi,
    pulledP_pushedP hstatus, mkWord_hiByte_loByte, he.regs]

/-- Settles O33: RTS by `rts_undoes_jsr`, and RTI by `rti_undoes_entry` for each of the three entries. -/
theorem returnsUndoEntries : Obligations.ReturnsUndoEntries := by
  intro target s h hb hstatus
  refine ⟨rts_undoes_jsr target s h hb, ?brk, rti_undoes_entry h hb hstatus (cpuNmi_entered s h),
    fun hi => rti_undoes_entry h hb hstatus (cpuIrq_entered s h hi)⟩
  obtain ⟨t, ht, he⟩ := brk_entered s h
  obtain ⟨u, hu⟩ := rti_undoes_entry h hb hstatus he
  exact ⟨t, u, ht, hu⟩

end Sys2Proof.Machine
end

section
/-! SUPPORT. The branches and their displacement (43_branch R120 to R129). -/

namespace Sys2Proof.Machine

/-! ## The displacement -/

/-- The value of a displacement byte, read as two's complement (43_branch R120). -/
theorem branchOffset_twosComplement (b : Byte) :
    branchOffset .twosComplement b =
      BitVec.ofInt 16 (if b.toNat < 128 then (b.toNat : Int) else (b.toNat : Int) - 256) := by
  have hval : b.toInt = if b.toNat < 128 then (b.toNat : Int) else (b.toNat : Int) - 256 := by
    rw [BitVec.toInt_eq_toNat_cond]
    by_cases hlow : b.toNat < 128
    · rw [if_pos hlow, if_pos (by omega)]
    · rw [if_neg hlow, if_neg (by omega)]
      rfl
  rw [← hval]
  rfl

/-- The magnitude a displacement byte holds under its sign bit. -/
theorem toNat_and_0x7F (b : Byte) : (b &&& 0x7F).toNat = b.toNat % 128 :=
  Nat.and_two_pow_sub_one_eq_mod b.toNat 7

/-- The value of a displacement byte, read as a sign and a magnitude (43_branch R120). -/
theorem branchOffset_signMagnitude (b : Byte) :
    branchOffset .signMagnitude b =
      BitVec.ofInt 16 (if b.toNat < 128 then (b.toNat : Int) else 128 - (b.toNat : Int)) := by
  have hb := b.isLt
  simp only [branchOffset, getLsbD_seven, decide_eq_true_eq]
  apply BitVec.eq_of_toNat_eq
  rw [BitVec.toNat_ofInt]
  by_cases hlow : b.toNat < 128
  · rw [if_pos hlow, if_neg (by omega), BitVec.toNat_setWidth]
    omega
  · rw [if_neg hlow, if_pos (by omega), BitVec.ofNat_eq_ofNat, BitVec.zero_sub, BitVec.toNat_neg,
      BitVec.toNat_setWidth, toNat_and_0x7F]
    omega

/-- The readings agree on a byte without the sign bit, and of the others where b - 256 is 128 - b. -/
theorem branchOffset_readings_agree_iff (b : Byte) :
    branchOffset .twosComplement b = branchOffset .signMagnitude b ↔ b.toNat < 0x80 ∨ b = 0xC0 := by
  have hb := b.isLt
  have hC0 : b = 0xC0 ↔ b.toNat = 192 := BitVec.toNat_inj.symm
  rw [branchOffset_twosComplement, branchOffset_signMagnitude, hC0, ← BitVec.toNat_inj, BitVec.toNat_ofInt,
    BitVec.toNat_ofInt]
  by_cases hlow : b.toNat < 128
  · simp only [hlow, if_true, true_or]
  · simp only [hlow, if_false, false_or]
    omega

/-- Settles O35: each reading's value by its lemma, and where they agree by the two values. -/
theorem branchOffsetReadings : Obligations.BranchOffsetReadings := fun b =>
  ⟨branchOffset_twosComplement b, branchOffset_signMagnitude b, branchOffset_readings_agree_iff b⟩

/-! ## The branches -/

/-- A branch writes PC and nothing else; not taken, it writes the PC past it (43_branch R121). -/
theorem branchIf_eq_setPc (taken : Bool) (rel : Byte) (s : State) :
    branchIf taken rel s =
      s.setPc (if taken then s.cpu.pc + branchOffset s.cfg.branchOffsetMode rel else s.cpu.pc) := by
  cases taken <;> rfl

/-- An instruction that branches when a flag has a value takes its displacement exactly then. -/
theorem yields_branchIf {i : Instr} {rel : Byte} {s : State} {f : Flag} {v taken : Bool}
    (hexec : exec i s = .next (branchIf taken rel s)) (htaken : taken = decide (s.flag f = v)) :
    Yields i s
      { s.cpu with pc := if s.flag f = v then s.cpu.pc + branchOffset s.cfg.branchOffsetMode rel else s.cpu.pc }
      s.flag (NoAccess s) := by
  rw [branchIf_eq_setPc, htaken] at hexec
  simp only [decide_eq_true_eq] at hexec
  exact yields_setPc hexec rfl ((NoAccess.refl s).setCpu _)

/-- A branch opcode is xxy10000 of its row of the table (30_encoding R79), whatever its operand byte. -/
theorem decodeOp_branch (sel : BitVec 3) (b1 b2 : Byte) :
    decodeOp (Family.branch sel).opcode b1 b2 = branchTable sel b1 := decodeOp_of_family rfl

/-- Settles O34: the opcodes by `decodeOp_branch`, the effects by `yields_branchIf` with each branch's condition, which
is the flag or its negation. -/
theorem branchResults : Obligations.BranchResults := by
  have hset (x : Bool) : x = decide (x = true) := Bool.decide_eq_true.symm
  have hclear (x : Bool) : (!x) = decide (x = false) := Bool.decide_eq_false.symm
  refine ⟨fun b1 b2 => ?opcodes, fun rel s => ?effects⟩
  case opcodes =>
    exact ⟨decodeOp_branch 0 b1 b2, decodeOp_branch 1 b1 b2, decodeOp_branch 2 b1 b2, decodeOp_branch 3 b1 b2,
      decodeOp_branch 4 b1 b2, decodeOp_branch 5 b1 b2, decodeOp_branch 6 b1 b2, decodeOp_branch 7 b1 b2⟩
  case effects =>
    exact ⟨yields_branchIf rfl (hclear _), yields_branchIf rfl (hset _), yields_branchIf rfl (hclear _),
      yields_branchIf rfl (hset _), yields_branchIf rfl (hclear _), yields_branchIf rfl (hset _),
      yields_branchIf rfl (hclear _), yields_branchIf rfl (hset _)⟩

end Sys2Proof.Machine
end

section
/-! SUPPORT. The Implied family (44_implied R130 to R155). -/

namespace Sys2Proof.Machine

/-- An Implied opcode is its index's entry in the table (30_encoding R80), whatever bytes follow it. -/
theorem decodeOp_implied (idx : BitVec 5) {i : Instr} {b1 b2 : Byte} (hi : impliedTable idx = some i) :
    decodeOp (Family.implied idx).opcode b1 b2 = i := decodeOp_of_family hi

/-! ## Instructions that write flags and registers only -/

theorem State.flag_setFlag (s : State) (f g : Flag) (v : Bool) :
    (s.setFlag f v).flag g = if g = f then v else s.flag g := getFlag_putFlag s.cpu.p f g v

/-- `SetZN(r)` in the words of the statements (40_dispatch R107). -/
theorem State.flag_setZN_eq_znFlags (s : State) (r : Byte) (f : Flag) : (s.setZN r).flag f = znFlags r s f := by
  rw [State.flag_setZN]
  cases f <;> rfl

/-- A change of CPU registers is no access. -/
theorem noAccess_setCpu (s : State) (c : Cpu) : NoAccess s { s with cpu := c } := (NoAccess.refl s).setCpu c

/-- An instruction whose meaning is to write one flag changes nothing else. -/
theorem yields_setFlag {i : Instr} {s : State} {g : Flag} {v : Bool} (hexec : exec i s = .next (s.setFlag g v)) :
    Yields i s s.cpu (fun f => if f = g then v else s.flag f) (NoAccess s) :=
  ⟨_, hexec, rfl, fun f => s.flag_setFlag g f v, noAccess_setCpu s _⟩

/-- An instruction that ends with `SetZN(r)`, in a state with the registers given and P as it was, writes Z and N only
of the flags. -/
theorem yields_setZN {i : Instr} {s u : State} {regs : Cpu} {r : Byte} {frame : State → Prop}
    (hexec : exec i s = .next (u.setZN r)) (hcpu : u.cpu = regs) (hp : regs.p = s.cpu.p)
    (hframe : frame (u.setZN r)) : Yields i s regs (znFlags r s) frame := by
  have hflag (f : Flag) : u.flag f = s.flag f := by rw [State.flag, State.flag, hcpu, hp]
  refine ⟨_, hexec, ?regs, fun f => ?flags, hframe⟩
  case regs => rw [← hcpu]; rfl
  case flags => simp only [State.flag_setZN_eq_znFlags, znFlags, hflag]

/-- An instruction that only writes registers, and then Z and N from a result, makes no access. -/
theorem yields_register {i : Instr} {s : State} {regs : Cpu} {r : Byte}
    (hexec : exec i s = .next (State.setZN { s with cpu := regs } r)) (hp : regs.p = s.cpu.p) :
    Yields i s regs (znFlags r s) (NoAccess s) := yields_setZN hexec rfl hp (noAccess_setCpu s _)

/-- Settles O23: the opcodes by the table, the effects by `yields_setFlag`. -/
theorem flagInstructionResults : Obligations.FlagInstructionResults := by
  refine ⟨fun b1 b2 => ?opcodes, fun s => ?effects⟩
  case opcodes =>
    exact ⟨decodeOp_implied 2 rfl, decodeOp_implied 6 rfl, decodeOp_implied 10 rfl, decodeOp_implied 14 rfl,
      decodeOp_implied 22 rfl, decodeOp_implied 26 rfl, decodeOp_implied 30 rfl⟩
  case effects =>
    exact ⟨yields_setFlag rfl, yields_setFlag rfl, yields_setFlag rfl, yields_setFlag rfl, yields_setFlag rfl,
      yields_setFlag rfl, yields_setFlag rfl⟩

/-- Settles O24: the opcodes by the table, the effects by `yields_register`; TXS, which writes no flag, by
`yields_keeping_flags`. -/
theorem transferResults : Obligations.TransferResults := by
  refine ⟨fun b1 b2 => ?opcodes, fun s => ?effects⟩
  case opcodes =>
    exact ⟨decodeOp_implied 21 rfl, decodeOp_implied 20 rfl, decodeOp_implied 17 rfl, decodeOp_implied 18 rfl,
      decodeOp_implied 19 rfl, decodeOp_implied 23 rfl⟩
  case effects =>
    exact ⟨yields_register rfl rfl, yields_register rfl rfl, yields_register rfl rfl, yields_register rfl rfl,
      yields_keeping_flags rfl rfl rfl (noAccess_setCpu s _), yields_register rfl rfl⟩

/-- Settles O25: the byte sum and difference are the ones modulo 256; then as the transfers, by `yields_register`. -/
theorem indexStepResults : Obligations.IndexStepResults := by
  refine ⟨fun b1 b2 => ?opcodes, fun s => ?effects⟩
  case opcodes =>
    exact ⟨decodeOp_implied 28 rfl, decodeOp_implied 24 rfl, decodeOp_implied 25 rfl, decodeOp_implied 16 rfl⟩
  case effects =>
    intro up down
    have hup (r : Byte) : up r = r + 1 := BitVec.eq_of_toNat_eq (by simp [up, BitVec.toNat_add])
    have hdown (r : Byte) : down r = r - 1 :=
      BitVec.eq_of_toNat_eq (by simp [down, BitVec.toNat_sub, Nat.add_comm])
    simp only [hup, hdown]
    exact ⟨yields_register rfl rfl, yields_register rfl rfl, yields_register rfl rfl, yields_register rfl rfl⟩

/-- Settles O26: the opcode by the table; the meaning of NOP is the state as it is. -/
theorem nopResult : Obligations.NopResult := ⟨fun _ _ => decodeOp_implied 29 rfl, fun _ => rfl⟩

/-! ## Shifts of the accumulator -/

/-- `(A, P.C) <- r; SetZN(A)` flag by flag (40_dispatch R107, R110). -/
theorem flag_shiftAccumulator (r : ShiftResult) (s : State) (f : Flag) :
    (shiftAccumulator r s).flag f = cznFlags r.c r.r s f := by
  rw [shiftAccumulator, State.flag_setZN_eq_znFlags]
  cases f with
  | z | n => rfl
  | c | v | u | b | d | i => exact State.flag_setFlag (s.setA r.r) .c _ r.c

theorem yields_shiftAccumulator {i : Instr} {s : State} (r : ShiftResult)
    (hexec : exec i s = .next (shiftAccumulator r s)) :
    Yields i s { s.cpu with a := r.r } (cznFlags r.c r.r s) (NoAccess s) :=
  ⟨_, hexec, rfl, flag_shiftAccumulator r s, noAccess_setCpu s _⟩

/-- Settles O22: the opcodes by the table, the effects by `yields_shiftAccumulator`; the bit a rotate brings in is the
carry as a byte. -/
theorem shiftAccumulatorResults : Obligations.ShiftAccumulatorResults := by
  refine ⟨fun b1 b2 => ?opcodes, fun s => ?effects⟩
  case opcodes =>
    exact ⟨decodeOp_implied 1 rfl, decodeOp_implied 5 rfl, decodeOp_implied 9 rfl, decodeOp_implied 13 rfl⟩
  case effects =>
    intro v cin
    have hcin : cin = (BitVec.ofBool (s.flag .c)).setWidth 8 := by
      cases hc : s.flag .c <;> simp [cin, hc]
    rw [hcin]
    exact ⟨yields_shiftAccumulator (shiftLeft v) rfl, yields_shiftAccumulator (rotateLeft v (s.flag .c)) rfl,
      yields_shiftAccumulator (shiftRight v) rfl, yields_shiftAccumulator (rotateRight v (s.flag .c)) rfl⟩

/-! ## Push and pull -/

/-- `PushedP(1)` sets bits 5 and 4 and keeps the others (40_dispatch R112). -/
theorem pushedP_true (p : Byte) : pushedP p true = p ||| 0x30 := by
  apply eq_of_getFlag
  intro f
  rw [getFlag_pushedP]
  cases f <;> simp [getFlag, Flag.bit]

/-- A push is one store, at the stack byte that S names before it (40_dispatch R103). -/
theorem push_storesAt (b : Byte) (s : State) (h : s.cfg.standard) :
    StoresAt (stackByte s.cpu.s) b s s (push b s) := by
  rw [push_eq b s h]
  exact (memWrite_storesAt _ b s).setCpu _

/-- An instruction whose meaning is a push writes no register but S and no flag. -/
theorem yields_push {i : Instr} {s : State} {b : Byte} (h : s.cfg.standard) (hexec : exec i s = .next (push b s)) :
    Yields i s { s.cpu with s := s.cpu.s - 1 } s.flag
      (fun t => StoresAt (stackByte s.cpu.s) b s s t ∧ t.bus.pendingRead = s.bus.pendingRead) := by
  obtain ⟨-, hread⟩ := push_pending b s h
  exact yields_keeping_flags hexec (push_cpu b s) rfl ⟨push_storesAt b s h, hread⟩

/-- Settles O27: the opcodes by the table, the effects by `yields_push`; the byte PHP pushes by `pushedP_true`. -/
theorem pushInstructionResults : Obligations.PushInstructionResults := by
  refine ⟨fun b1 b2 => ⟨decodeOp_implied 0 rfl, decodeOp_implied 8 rfl⟩, fun s h => ⟨?php, yields_push h rfl⟩⟩
  case php =>
    rw [← pushedP_true]
    exact yields_push h rfl

/-- PLP is one read of the stack page, then S and P (44_implied R131). -/
theorem exec_plp (s : State) (h : s.cfg.standard) :
    let r := memRead (stackByte (s.cpu.s + 1)) s
    exec .plp s = .next { r.2 with cpu := { s.cpu with s := s.cpu.s + 1, p := pulledP r.1 } } := by
  show Host.Outcome.next ((pull s).2.setP (pulledP (pull s).1)) = _
  simp only [pull_eq s h, State.setP, State.setS, memRead_cpu]

/-- PLA is one read of the stack page, then S and A, and Z and N from A (44_implied R133). -/
theorem exec_pla (s : State) (h : s.cfg.standard) :
    let r := memRead (stackByte (s.cpu.s + 1)) s
    exec .pla s = .next (State.setZN { r.2 with cpu := { s.cpu with s := s.cpu.s + 1, a := r.1 } } r.1) := by
  show Host.Outcome.next (((pull s).2.setA (pull s).1).setZN (pull s).1) = _
  simp only [pull_eq s h, State.setA, State.setS, memRead_cpu]

/-- Settles O28: the opcodes by the table, the effects by `exec_plp` and `exec_pla`; the read records nothing, as every
read of the stack page, and PLP's flags are those of the pulled byte by `getFlag_pulledP`. -/
theorem pullInstructionResults : Obligations.PullInstructionResults := by
  refine ⟨fun b1 b2 => ⟨decodeOp_implied 4 rfl, decodeOp_implied 12 rfl⟩, fun s h => ?_⟩
  intro at' v frame
  have hreads : StackReads s (memRead at' s).2 := (StackReads.refl s).memRead (s.cpu.s + 1)
  have hframe (c : Cpu) : frame { (memRead at' s).2 with cpu := c } :=
    ⟨(memRead_readsAt at' s).setCpu c, hreads.pendingRead⟩
  exact ⟨⟨_, exec_plp s h, rfl, getFlag_pulledP v, hframe _⟩, yields_setZN (exec_pla s h) rfl rfl (hframe _)⟩

end Sys2Proof.Machine
end

section
/-! SUPPORT. The Common family's instructions on A, X and Y and an operand: logic, ADC and SBC, loads and stores
(45_common_group1 R157 to R164, 46_common_group2 R169 and R170, 47_common_group0 R174 and R175). -/

namespace Sys2Proof

/-- The handlers that read in all eight modes are of group cc = 01, and there no mode field is illegal
(30_encoding R82, R84). -/
theorem CommonHandler.mode_of_readModes {h : CommonHandler} (hread : h.validModes = readModes) (bbb : BitVec 3) :
    h.mode bbb = some (modeGroup1 bbb) := by
  have hvalid : ∀ bbb, readModes.contains (modeGroup1 bbb) = true := by decide
  have hfield : h.fieldMode bbb = some (modeGroup1 bbb) := by
    cases h with
    | ora | and | eor | adc | lda | cmp | sbc => rfl
    | sta | asl | rol | lsr | ror | stx | ldx | dec | inc | bit | sty | ldy | cpy | cpx =>
      exact absurd hread (by decide)
  simp only [CommonHandler.mode, hfield, hread, hvalid, if_true]

/-- Such a handler's slot with any mode field decodes to its instruction, its operand in the field's mode. -/
theorem CommonHandler.decodeOp_of_readModes (h : CommonHandler) {bbb : BitVec 3} {b1 b2 : Byte} {i : Instr}
    (hread : h.validModes = readModes) (hi : h.instr ((modeGroup1 bbb).operand b1 b2) = some i) :
    decodeOp (Family.common h.slot bbb).opcode b1 b2 = i :=
  h.decodeOp_slot (CommonHandler.mode_of_readModes hread bbb) hi

end Sys2Proof

namespace Sys2Proof.Machine

/-! ## Logic and loads -/

/-- An instruction that reads its operand, writes registers other than P and ends with `SetZN(r)` reads nothing else
and writes no flag but Z and N. -/
theorem yields_operand {i : Instr} {o : Operand} {s : State} {r : Byte} (write : Cpu → Cpu)
    (hexec : exec i s =
      .next (State.setZN { (readOperand o s).2 with cpu := write (readOperand o s).2.cpu } r))
    (hp : (write s.cpu).p = s.cpu.p) : Yields i s (write s.cpu) (znFlags r s) (OperandRead o s) :=
  yields_setZN hexec (congrArg write (readOperand_cpu o s)) hp ((readOperand_frame o s).setCpu _)

/-- Settles O14: the forms by `decodeOp_of_readModes`, the three results by `yields_operand`. -/
theorem logicResults : Obligations.LogicResults := by
  refine ⟨fun bbb b1 b2 => ?forms, fun o s => ?effects⟩
  case forms =>
    exact ⟨CommonHandler.decodeOp_of_readModes .ora rfl rfl, CommonHandler.decodeOp_of_readModes .and rfl rfl,
      CommonHandler.decodeOp_of_readModes .eor rfl rfl⟩
  case effects =>
    intro m
    exact ⟨yields_operand (fun c => { c with a := s.cpu.a ||| m }) rfl rfl,
      yields_operand (fun c => { c with a := s.cpu.a &&& m }) rfl rfl,
      yields_operand (fun c => { c with a := s.cpu.a ^^^ m }) rfl rfl⟩

/-- Settles O16: LDA's forms by `decodeOp_of_readModes`, those of LDX and LDY by the tables, and the three loads by
`yields_operand`. -/
theorem loadResults : Obligations.LoadResults := by
  refine ⟨fun bbb b1 b2 => CommonHandler.decodeOp_of_readModes .lda rfl rfl, fun b1 b2 => ?forms, fun o s => ?effects⟩
  case forms =>
    exact ⟨rfl, rfl, rfl, rfl, rfl, decodeOp_illegal (by decide) b1 b2, rfl, rfl, rfl, rfl, rfl⟩
  case effects =>
    intro m
    exact ⟨yields_operand (fun c => { c with a := m }) rfl rfl, yields_operand (fun c => { c with x := m }) rfl rfl,
      yields_operand (fun c => { c with y := m }) rfl rfl⟩

/-! ## ADC and SBC -/

/-- `A <- r; P.C <- c; P.V <- v; SetZN(A)` flag by flag (40_dispatch R107, R108). -/
theorem flag_addToAccumulator (r : AddResult) (s : State) (f : Flag) :
    (addToAccumulator r s).flag f = if f = .v then r.v else cznFlags r.c r.r s f := by
  rw [addToAccumulator, State.flag_setZN_eq_znFlags]
  cases f with
  | z | n => rfl
  | c | v | u | b | d | i =>
    show (((s.setA r.r).setFlag .c r.c).setFlag .v r.v).flag _ = _
    rw [State.flag_setFlag, State.flag_setFlag]
    rfl

/-- An instruction that ends by adding to A, after reading its operand, writes A, C, V, Z and N. -/
theorem yields_addToAccumulator {i : Instr} {o : Operand} {s : State} (r : AddResult)
    (hexec : exec i s = .next (addToAccumulator r (readOperand o s).2)) :
    Yields i s { s.cpu with a := r.r } (fun f => if f = .v then r.v else cznFlags r.c r.r s f) (OperandRead o s) := by
  refine ⟨_, hexec, ?regs, fun f => ?flags, (readOperand_frame o s).setCpu _⟩
  case regs => simp [addToAccumulator, State.setA, State.setFlag, State.setZN]
  case flags =>
    rw [flag_addToAccumulator]
    cases f with
    | c | v | z | n => rfl
    | u | b | d | i => exact readOperand_flag o s _

/-- The adder's carry from a complemented operand: 1 exactly when the difference needs no borrow (45 R164). -/
theorem addWithCarry_complement_carry_iff (a m : Byte) (cin : Bool) :
    (addWithCarry a (~~~m) cin).c = true ↔ 0 ≤ (a.toNat : Int) - (m.toNat : Int) - (1 - (cin.toNat : Int)) := by
  have hm := m.isLt
  simp only [addWithCarry, BitVec.toNat_not, decide_eq_true_iff]
  omega

/-- Settles O15: the forms by `decodeOp_of_readModes`, both sums by `yields_addToAccumulator`, the borrow by
`addWithCarry_complement_carry_iff`. -/
theorem addSubtractResults : Obligations.AddSubtractResults := by
  refine ⟨fun bbb b1 b2 => ?forms, fun o s => ?effects⟩
  case forms =>
    exact ⟨CommonHandler.decodeOp_of_readModes .adc rfl rfl, CommonHandler.decodeOp_of_readModes .sbc rfl rfl⟩
  case effects =>
    intro m sum dif
    exact ⟨yields_addToAccumulator sum rfl, yields_addToAccumulator dif rfl,
      addWithCarry_complement_carry_iff s.cpu.a m (s.flag .c)⟩

/-! ## Stores -/

/-- An instruction whose meaning is a store writes no register and no flag, and records no read of its target
(40_dispatch R101). -/
theorem yields_store {i : Instr} {m : MemOperand} {s : State} {v : Byte} (hexec : exec i s = .next (store m v s)) :
    Yields i s s.cpu s.flag
      (fun t => StoresAt (effectiveAddress m s).1 v (effectiveAddress m s).2 s t ∧
        t.bus.pendingRead = s.bus.pendingRead) :=
  yields_keeping_flags hexec (store_cpu m v s) rfl (store_frame m v s)

/-- Settles O19: the forms by the tables, the illegal ones by R87's list, and the three stores by `yields_store`. -/
theorem storeResults : Obligations.StoreResults := by
  refine ⟨fun b1 b2 => ⟨rfl, rfl, rfl, rfl, rfl, rfl, rfl, ?_, rfl, rfl, rfl, ?_, ?_, ?_, rfl, rfl, rfl, ?_, ?_⟩,
    fun m s => ⟨yields_store rfl, yields_store rfl, yields_store rfl⟩⟩
  all_goals exact decodeOp_illegal (by decide) b1 b2

end Sys2Proof.Machine
end

section
/-! SUPPORT. The Common family's read-modify-write instructions on memory: the shifts and rotates, DEC and INC
(46_common_group2 R165 to R168, R171 and R172). -/

namespace Sys2Proof

/-- A list of opcodes of R87's list decodes to illegal instructions. -/
theorem decodeOp_illegal_of_listed {ops : List Byte} (h : ∀ op ∈ ops, op ∈ illegalOpcodes) (b1 b2 : Byte) :
    ∀ op ∈ ops, decodeOp op b1 b2 = .illegal op := fun op hop => decodeOp_illegal (h op hop) b1 b2

end Sys2Proof

namespace Sys2Proof.Machine

/-! ## Read-modify-write -/

/-- From s to t there was a read-modify-write of the operand m that stored r: one read and then one store at the
effective address (40_dispatch R102). -/
def ModifiesAt (m : MemOperand) (r : Byte) (s t : State) : Prop :=
  StoresAt (effectiveAddress m s).1 r (readMem m s).2 s t ∧
    t.bus.pendingRead = readRecorded (effectiveAddress m s).1 s

theorem modify_modifiesAt (m : MemOperand) (f : Byte → Byte) (s : State) :
    ModifiesAt m (f (readMem m s).1) s (modify m f s).2 := modify_frame m f s

theorem ModifiesAt.setCpu {m : MemOperand} {r : Byte} {s t : State} (h : ModifiesAt m r s t) (c : Cpu) :
    ModifiesAt m r s { t with cpu := c } := ⟨h.1.setCpu c, h.2⟩

/-- An instruction that modifies memory and ends with `SetZN` of the byte it stored writes no register, and no flag but
Z and N. -/
theorem yields_modify {i : Instr} {m : MemOperand} {s : State} (f : Byte → Byte)
    (hexec : exec i s = .next ((modify m f s).2.setZN (f (readMem m s).1))) :
    Yields i s s.cpu (znFlags (f (readMem m s).1) s) (ModifiesAt m (f (readMem m s).1) s) :=
  yields_setZN hexec (modify_cpu m f s) rfl ((modify_modifiesAt m f s).setCpu _)

/-- Settles O21: the forms by the tables, the illegal ones by R87's list, and both effects by `yields_modify`. -/
theorem incDecMemoryResults : Obligations.IncDecMemoryResults := by
  refine ⟨fun b1 b2 => ⟨rfl, rfl, rfl, rfl, rfl, rfl, rfl, rfl, ?illegal⟩,
    fun m s => ⟨yields_modify (· - 1) rfl, yields_modify (· + 1) rfl⟩⟩
  case illegal => exact decodeOp_illegal_of_listed (by decide) b1 b2

/-! ## Shifts of memory -/

/-- `P.C <- c; SetZN(r)` flag by flag, after the byte was stored (46_common_group2 R165). -/
theorem flag_shiftMemory (m : MemOperand) (f : Byte → ShiftResult) (s : State) (g : Flag) :
    (shiftMemory m f s).flag g = cznFlags (f (readMem m s).1).c (f (readMem m s).1).r s g := by
  have hflag : (modify m (fun b => (f b).r) s).2.flag g = s.flag g := by rw [State.flag, State.flag, modify_cpu]
  refine (State.flag_setZN_eq_znFlags _ _ g).trans ?_
  cases g with
  | z | n => rfl
  | c => exact getFlag_putFlag_same _ .c _
  | v | u | b | d | i => exact (State.flag_setFlag _ .c _ _).trans hflag

/-- An instruction whose meaning is a shift of memory writes no register, and C, Z and N only of the flags. -/
theorem yields_shiftMemory {i : Instr} {m : MemOperand} {s : State} (f : Byte → ShiftResult)
    (hexec : exec i s = .next (shiftMemory m f s)) :
    Yields i s s.cpu (cznFlags (f (readMem m s).1).c (f (readMem m s).1).r s)
      (ModifiesAt m (f (readMem m s).1).r s) := by
  refine ⟨_, hexec, ?regs, flag_shiftMemory m f s, (modify_modifiesAt m (fun b => (f b).r) s).setCpu _⟩
  case regs => simp [shiftMemory, State.setZN, State.setFlag]

/-- The carry as the byte a rotate brings in (40_dispatch R110). -/
theorem ite_eq_ofBool_setWidth (c : Bool) : (if c then 1 else 0 : Byte) = (BitVec.ofBool c).setWidth 8 := by
  cases c <;> rfl

/-- Settles O20: the forms by the tables, the illegal ones by R87's list, and the effects by `yields_shiftMemory`; the
bit a rotate brings in by `ite_eq_ofBool_setWidth`. -/
theorem shiftMemoryResults : Obligations.ShiftMemoryResults := by
  refine ⟨fun b1 b2 => ⟨rfl, rfl, rfl, rfl, rfl, rfl, rfl, rfl, rfl, rfl, rfl, rfl, rfl, rfl, rfl, rfl,
    ?illegal⟩, fun m s => ?effects⟩
  case illegal => exact decodeOp_illegal_of_listed (by decide) b1 b2
  case effects =>
    intro ea old v frame cin
    have hcin : cin = (BitVec.ofBool (s.flag .c)).setWidth 8 := ite_eq_ofBool_setWidth (s.flag .c)
    rw [hcin]
    exact ⟨yields_shiftMemory shiftLeft rfl, yields_shiftMemory (rotateLeft · (s.flag .c)) rfl,
      yields_shiftMemory shiftRight rfl, yields_shiftMemory (rotateRight · (s.flag .c)) rfl⟩

end Sys2Proof.Machine
end

section
/-! SUPPORT. The Common family's BIT (47_common_group0 R173). -/

namespace Sys2Proof.Machine

/-- The three flag writes of BIT, flag by flag (47_common_group0 R173). -/
theorem State.flag_setFlag_z_n_v (s : State) (z n v : Bool) (f : Flag) :
    (((s.setFlag .z z).setFlag .n n).setFlag .v v).flag f = match f with
      | .z => z
      | .n => n
      | .v => v
      | f => s.flag f := by
  simp only [State.flag_setFlag]
  cases f <;> rfl

/-- Settles O18: the forms by the tables, the illegal ones by R87's list; the read is the operand's own by
`readOperand_frame`, and after it BIT writes three flags, by `flag_setFlag_z_n_v`. -/
theorem bitResult : Obligations.BitResult := by
  refine ⟨fun b1 b2 => ⟨rfl, rfl, decodeOp_illegal (by decide) b1 b2, decodeOp_illegal (by decide) b1 b2⟩,
    fun a s => ⟨_, rfl, ?regs, fun f => ?flags, (readOperand_frame (.mem a) s).setCpu _⟩⟩
  case regs => simp [State.setFlag]
  case flags =>
    refine (State.flag_setFlag_z_n_v _ _ _ _ f).trans ?_
    cases f with
    | z | n | v => rfl
    | c | u | b | d | i => exact readOperand_flag (.mem a) s _

end Sys2Proof.Machine
end

section
/-! SUPPORT. Runs of PPU steps, and the frame budget (49_ppu_timing_render R205, R210). -/

namespace Sys2Proof.Machine

theorem andThen_eq_next {o : Host.Outcome State Fault Refusal} {f : State → Host.Outcome State Fault Refusal}
    {t : State} : andThen o f = .next t ↔ ∃ u, o = .next u ∧ f u = .next t := by
  cases o <;> simp [andThen]

theorem andThen_assoc (o : Host.Outcome State Fault Refusal) (f g : State → Host.Outcome State Fault Refusal) :
    andThen (andThen o f) g = andThen o fun u => andThen (f u) g := by
  cases o <;> rfl

theorem ppuRun_add (m n : Nat) (s : State) : ppuRun (m + n) s = andThen (ppuRun m s) (ppuRun n) := by
  induction m generalizing s with
  | zero => rw [Nat.zero_add]; rfl
  | succ m ih => simp only [Nat.succ_add, ppuRun, andThen_assoc, funext ih]

/-- What every PPU step keeps, a run of them keeps. -/
theorem ppuRun_keeps {P : State → Prop} (hstep : ∀ s t, P s → ppuStep s = .next t → P t) {n : Nat} {s t : State}
    (hs : P s) (h : ppuRun n s = .next t) : P t := by
  induction n generalizing s with
  | zero => cases h; exact hs
  | succ n ih =>
    obtain ⟨u, hu, hrun⟩ := andThen_eq_next.mp h
    exact ih (hstep s u hs hu) hrun

/-- A run of PPU steps keeps the parameters and the counters' ranges. -/
theorem ppuRun_timingOk {cfg : Config} {n : Nat} {s t : State} (hs : s.cfg = cfg ∧ s.ppu.timingOk cfg)
    (h : ppuRun n s = .next t) : t.cfg = cfg ∧ t.ppu.timingOk cfg := by
  refine ppuRun_keeps (P := fun u => u.cfg = cfg ∧ u.ppu.timingOk cfg) ?_ hs h
  rintro u v ⟨rfl, hu⟩ hv
  obtain ⟨hside, -, -, -, hcounters⟩ := ppuStep_frame u v hv
  exact ⟨hside.cfg, Ppu.timingOk_of_sameCounters (Ppu.timingOk_advance hu) hcounters⟩

/-- The scanline is a function of the cycle (10_state R48). -/
theorem Ppu.scanline_of_timingOk {cfg : Config} {p : Ppu} (h : p.timingOk cfg) :
    p.scanline = p.cycle / cfg.dotsPerScanline := by
  obtain ⟨-, hpos, hdot, -⟩ := h
  rw [hpos, Nat.mul_comm, Nat.mul_add_div (Nat.zero_lt_of_lt hdot), Nat.div_eq_of_lt hdot, Nat.add_zero]

/-- So is the dot (10_state R48). -/
theorem Ppu.dot_of_timingOk {cfg : Config} {p : Ppu} (h : p.timingOk cfg) :
    p.dot = p.cycle % cfg.dotsPerScanline := by
  obtain ⟨-, hpos, hdot, -⟩ := h
  rw [hpos, Nat.mul_comm, Nat.mul_add_mod, Nat.mod_eq_of_lt hdot]

/-- A step at the last cycle of the frame starts the next one (49 R205). -/
theorem ppuStep_wraps {s t : State} (h : ppuStep s = .next t) (hlast : s.ppu.cycle = s.cfg.frameCycles - 1) :
    t.ppu.cycle = 0 ∧ t.ppu.frames = (s.ppu.frames + 1) % 2 ^ s.cfg.frameCounterWidth ∧
      t.ppu.oddFrame = !s.ppu.oddFrame := by
  obtain ⟨-, -, -, -, hcounters⟩ := ppuStep_frame s t h
  rw [hcounters.cycle, hcounters.frames, hcounters.oddFrame, advance_cycle, advance_frames, advance_oddFrame,
    if_pos hlast, if_pos hlast, if_pos hlast]
  exact ⟨rfl, rfl, rfl⟩

/-- A run that ends within the frame counts its steps, and no frame (49 R205). -/
theorem ppuRun_within_frame {n : Nat} {s t : State} (h : ppuRun n s = .next t)
    (hn : s.ppu.cycle + n < s.cfg.frameCycles) :
    t.ppu.cycle = s.ppu.cycle + n ∧ t.ppu.frames = s.ppu.frames ∧ t.ppu.oddFrame = s.ppu.oddFrame := by
  induction n generalizing s with
  | zero => cases h; exact ⟨rfl, rfl, rfl⟩
  | succ n ih =>
    obtain ⟨u, hu, hrun⟩ := andThen_eq_next.mp h
    obtain ⟨hside, -, -, -, hcounters⟩ := ppuStep_frame s u hu
    have hne : s.ppu.cycle ≠ s.cfg.frameCycles - 1 := by omega
    have hcycle : u.ppu.cycle = s.ppu.cycle + 1 := by rw [hcounters.cycle, advance_cycle, if_neg hne]
    have hframes : u.ppu.frames = s.ppu.frames := by rw [hcounters.frames, advance_frames, if_neg hne]
    have hodd : u.ppu.oddFrame = s.ppu.oddFrame := by rw [hcounters.oddFrame, advance_oddFrame, if_neg hne]
    obtain ⟨hc, hf, ho⟩ := ih hrun (by rw [hcycle, hside.cfg]; omega)
    exact ⟨by omega, hf.trans hframes, ho.trans hodd⟩

/-- Settles O55: the run is the steps up to the last cycle of the frame, the step that wraps, and the steps from cycle
0 back up to the cycle it began at. -/
theorem frameBudgetLaw : Obligations.FrameBudgetLaw := by
  intro s t _ hs h
  have hlt : s.ppu.cycle < s.cfg.frameCycles := hs.1
  have hsplit : s.cfg.frameCycles = (s.cfg.frameCycles - 1 - s.ppu.cycle) + (1 + s.ppu.cycle) := by omega
  have hrun := h
  rw [hsplit, ppuRun_add] at hrun
  obtain ⟨u, hu, hrest⟩ := andThen_eq_next.mp hrun
  rw [ppuRun_add] at hrest
  obtain ⟨v, huv, hv⟩ := andThen_eq_next.mp hrest
  obtain ⟨w, hw, hwv⟩ := andThen_eq_next.mp huv
  cases hwv
  obtain ⟨hucfg, -⟩ := ppuRun_timingOk ⟨rfl, hs⟩ hu
  obtain ⟨hucycle, huframes, huodd⟩ := ppuRun_within_frame hu (by omega)
  obtain ⟨hvcycle, hvframes, hvodd⟩ := ppuStep_wraps hw (by rw [hucfg, hucycle]; omega)
  have hvcfg : v.cfg = s.cfg := (ppuStep_frame u v hw).1.cfg.trans hucfg
  obtain ⟨htcycle, htframes, htodd⟩ := ppuRun_within_frame hv (by rw [hvcfg, hvcycle]; omega)
  obtain ⟨-, ht⟩ := ppuRun_timingOk ⟨rfl, hs⟩ h
  have hcycle : t.ppu.cycle = s.ppu.cycle := by rw [htcycle, hvcycle, Nat.zero_add]
  refine ⟨hcycle, ?scanline, ?dot, ?frames, ?odd⟩
  case scanline => rw [Ppu.scanline_of_timingOk ht, Ppu.scanline_of_timingOk hs, hcycle]
  case dot => rw [Ppu.dot_of_timingOk ht, Ppu.dot_of_timingOk hs, hcycle]
  case frames => rw [htframes, hvframes, huframes, hucfg]
  case odd => rw [htodd, hvodd, huodd]

end Sys2Proof.Machine
end

section
/-! SUPPORT. The services of a PPU step (48_ppu_latch_engine R182 to R199): the registers', DATA's access of the PPU
space, and when a step fails. -/

namespace Sys2Proof.Machine

/-! ## The registers -/

theorem ToggleLatch.write_eq (l : ToggleLatch) (v : Byte) :
    l.write v =
      ⟨if l.expectHi = true then v else l.hi, if l.expectHi = true then l.lo else v, !l.expectHi⟩ := by
  obtain ⟨hi, lo, e⟩ := l
  cases e <;> rfl

/-- Settles O42: each service by its own arm; the cursor's wrap is that of a byte's addition, and OAM after its write
is that of a memory's. -/
theorem ppuServices : Obligations.PpuServices := by
  intro v s
  refine ⟨rfl, rfl, rfl, rfl, ?scroll, ?address, ⟨_, rfl, ?oamFrame, fun i => ?oamBytes⟩, rfl, fun r hs hd => ?others⟩
  case scroll => simp only [serviceWrite, ToggleLatch.write_eq]
  case address => simp only [serviceWrite, ToggleLatch.write_eq]
  case oamFrame =>
    have hwrap : s.ppu.oamAddr + 1 = BitVec.ofNat 8 ((s.ppu.oamAddr.toNat + 1) % 256) :=
      BitVec.eq_of_toNat_eq (by simp [BitVec.toNat_add])
    rw [← hwrap]
    rfl
  case oamBytes => exact Memory.read_write _ _ _ _
  case others =>
    cases r with
    | status => exact absurd rfl hs
    | data => exact absurd rfl hd
    | control | mask | oamAddr | oamData | scroll | address => rfl

/-! ## DATA -/

@[simp] theorem chrRead_ppu (a : Nat) (s : State) : (chrRead a s).2.ppu = s.ppu := by rw [chrRead_frame a s]

@[simp] theorem chrWrite_ppu (a : Nat) (v : Byte) (s : State) : (chrWrite a v s).ppu = s.ppu := by
  rw [chrWrite_frame a v s]

/-- The address after `Increment()` (48 R196). -/
theorem Ppu.increment_addr (p : Ppu) :
    p.increment.addr.value = p.addr.value + (if p.control.getLsbD 2 = true then 32 else 1) ∧
      p.increment.addr.expectHi = p.addr.expectHi :=
  ⟨mkWord_hiByte_loByte _, rfl⟩

/-- A load below the palette is one of chr space (48 R182). -/
theorem ppuLoad_chr (a : Word) (s : State) (hs : s.cfg.standard) (ha : a.toNat < 0x3F00) :
    ppuLoad a s = .ok (chrRead a.toNat s) := by
  rw [ppuLoad, if_neg (by rw [hs]; simp only; omega), if_pos (by rw [hs]; exact ha)]

/-- A store below the palette is one of chr space (48 R182). -/
theorem ppuStore_chr (a : Word) (v : Byte) (s : State) (hs : s.cfg.standard) (ha : a.toNat < 0x3F00) :
    ppuStore a v s = .ok (chrWrite a.toNat v s) := by
  rw [ppuStore, if_neg (by rw [hs]; simp only; omega), if_pos (by rw [hs]; exact ha)]

/-- A load past the PPU space fails (48 R182). -/
theorem ppuLoad_past (a : Word) (s : State) (hs : s.cfg.standard) (ha : 0x4000 ≤ a.toNat) :
    ppuLoad a s = .error a := by
  rw [ppuLoad, if_pos (by rw [hs]; exact ha)]

/-- A store past the PPU space fails (48 R182). -/
theorem ppuStore_past (a : Word) (v : Byte) (s : State) (hs : s.cfg.standard) (ha : 0x4000 ≤ a.toNat) :
    ppuStore a v s = .error a := by
  rw [ppuStore, if_pos (by rw [hs]; exact ha)]

theorem serviceWrite_data_of_store {v : Byte} {s t : State} (h : ppuStore s.ppu.addr.value v s = .ok t) :
    serviceWrite .data v s = .ok { t with ppu := t.ppu.increment } := by
  simp only [serviceWrite, h]

theorem serviceRead_data_of_load {s : State} {l : Byte × State} (h : ppuLoad s.ppu.addr.value s = .ok l) :
    serviceRead .data s = .ok { l.2 with bus := { l.2.bus with staged := l.1 }, ppu := l.2.ppu.increment } := by
  simp only [serviceRead, h]

theorem serviceWrite_data_past (v : Byte) (s : State) (hs : s.cfg.standard) (ha : 0x4000 ≤ s.ppu.addr.value.toNat) :
    serviceWrite .data v s = .error s.ppu.addr.value := by
  simp only [serviceWrite, ppuStore_past _ v s hs ha]

theorem serviceRead_data_past (s : State) (hs : s.cfg.standard) (ha : 0x4000 ≤ s.ppu.addr.value.toNat) :
    serviceRead .data s = .error s.ppu.addr.value := by
  simp only [serviceRead, ppuLoad_past _ s hs ha]

/-- The store of another chr space is one call of it (20_memory R60). -/
theorem chrWrite_other (a : Nat) (v : Byte) (s : State) {k : Nat} (h : s.cfg.chr = .other k) :
    chrWrite a v s = s.setExt (Config.chrStore k s.bus.ext a v) := by
  simp only [chrWrite, h]

/-- The load of another chr space is one call of it (20_memory R60). -/
theorem chrRead_other (a : Nat) (s : State) {k : Nat} (h : s.cfg.chr = .other k) :
    chrRead a s = ((Config.chrLoad k s.bus.ext a).1, s.setExt (Config.chrLoad k s.bus.ext a).2) := by
  simp only [chrRead, h]

/-- A store of the reference chr space is one of memory (20_memory R60). -/
theorem chrWrite_plain (a : Nat) (v : Byte) (s : State) (h : s.cfg.chr = .reference) :
    chrWrite a v s = { s with bus := { s.bus with chr := s.bus.chr.write a v } } := by
  simp only [chrWrite, h]

/-- Settles O43: the access by the range of its address, the address after it by `Ppu.increment_addr`. -/
theorem dataAccess : Obligations.DataAccess := by
  intro v s hs a moved l
  have hmoved : ∀ t : State, t.ppu = s.ppu → moved { t with ppu := t.ppu.increment } := by
    rintro t ht
    rw [ht]
    exact s.ppu.increment_addr
  refine ⟨fun hchr => ⟨?chrStore, ?chrLoad⟩, fun hlo hhi => ⟨?palStore, ?palLoad⟩, fun hpast => ?past, fun b => ?chr⟩
  case chrStore =>
    refine ⟨_, serviceWrite_data_of_store (ppuStore_chr a v s hs hchr), hmoved _ (chrWrite_ppu _ _ _), ?_⟩
    rw [chrWrite_ppu]
    rfl
  case chrLoad =>
    refine ⟨_, serviceRead_data_of_load (ppuLoad_chr a s hs hchr), hmoved { l.2 with bus := _ } (chrRead_ppu _ _), ?_⟩
    rw [chrRead_ppu]
    rfl
  case palStore =>
    refine ⟨_, serviceWrite_data_of_store (ppuStore_palette a v s hs hlo hhi), s.ppu.increment_addr, rfl, fun i => ?_⟩
    exact palRead_palWrite i (palOffset a) v s.ppu
  case palLoad =>
    exact ⟨_, serviceRead_data_of_load (ppuLoad_palette a s hs hlo hhi), s.ppu.increment_addr, rfl⟩
  case past => exact ⟨serviceWrite_data_past v s hs hpast, serviceRead_data_past s hs hpast⟩
  case chr =>
    refine ⟨fun hc => ⟨chrRead_plain b s hc, ?_, fun c => ?_⟩,
      fun k hk => ⟨chrRead_other b s hk, chrWrite_other b v s hk⟩⟩
    · rw [chrWrite_plain b v s hc]
    · rw [chrWrite_plain b v s hc]
      exact Memory.read_write _ _ _ _

/-! ## When a step fails -/

theorem ppuStep_of_services {s t : State} (h : services s = .ok t) : ppuStep s = .next (publishStatus (tick t)) := by
  simp only [ppuStep, h]

theorem ppuStep_of_services_error {s : State} {a : Word} (h : services s = .error a) :
    ppuStep s = .fault (.ppuFatal a s) := by
  simp only [ppuStep, h]

theorem takeWrite_none {s : State} (h : s.bus.pendingWrite = none) : takeWrite s = .ok s := by
  simp only [takeWrite, h]

theorem takeWrite_some {s : State} {v : Byte} {r : PpuReg} (h : s.bus.pendingWrite = some (v, r)) :
    takeWrite s = serviceWrite r v { s with bus := { s.bus with pendingWrite := none } } := by
  simp only [takeWrite, h]

theorem takeRead_none {s : State} (h : s.bus.pendingRead = none) : takeRead s = .ok s := by
  simp only [takeRead, h]

theorem takeRead_some {s : State} {r : PpuReg} (h : s.bus.pendingRead = some r) :
    takeRead s = serviceRead r { s with bus := { s.bus with pendingRead := none } } := by
  simp only [takeRead, h]

theorem services_of_takeWrite {s t : State} (h : takeWrite s = .ok t) : services s = takeRead t := by
  simp only [services, h]

theorem services_of_takeWrite_error {s : State} {a : Word} (h : takeWrite s = .error a) : services s = .error a := by
  simp only [services, h]

/-- Below the end of the PPU space a DATA write completes (48 R194). -/
theorem serviceWrite_data_completes (v : Byte) (s : State) (hs : s.cfg.standard)
    (ha : s.ppu.addr.value.toNat < 0x4000) : ∃ t, serviceWrite .data v s = .ok t := by
  by_cases hchr : s.ppu.addr.value.toNat < 0x3F00
  · exact ⟨_, serviceWrite_data_of_store (ppuStore_chr _ v s hs hchr)⟩
  · exact ⟨_, serviceWrite_data_of_store (ppuStore_palette _ v s hs (Nat.not_lt.mp hchr) ha)⟩

/-- Below the end of the PPU space a DATA read completes (48 R195). -/
theorem serviceRead_data_completes (s : State) (hs : s.cfg.standard)
    (ha : s.ppu.addr.value.toNat < 0x4000) : ∃ t, serviceRead .data s = .ok t := by
  by_cases hchr : s.ppu.addr.value.toNat < 0x3F00
  · exact ⟨_, serviceRead_data_of_load (ppuLoad_chr _ s hs hchr)⟩
  · exact ⟨_, serviceRead_data_of_load (ppuLoad_palette _ s hs (Nat.not_lt.mp hchr) ha)⟩

/-- With no DATA read pending the second phase completes (48 R180, R199). -/
theorem takeRead_completes {s : State} (h : s.bus.pendingRead ≠ some .data) : ∃ t, takeRead s = .ok t := by
  cases hr : s.bus.pendingRead with
  | none => exact ⟨s, takeRead_none hr⟩
  | some r =>
    rw [takeRead_some hr]
    cases r with
    | data => exact absurd hr h
    | control | mask | status | oamAddr | oamData | scroll | address => exact ⟨_, rfl⟩

/-- Settles O44: a failing step has failed in its services, so past the PPU space, and has a DATA access pending, as
it would complete without; the other clauses are the one service that can fail, at the step's own address. -/
theorem ppuFatalOutcome : Obligations.PpuFatalOutcome := by
  intro s hs
  refine ⟨fun v hw ha => ?writeFails, fun hw hr ha => ?readFails, fun e he => ?failure, fun e he => ?notRefused,
    ppuStep_completes s, fun v hw hr ha => ?writeCompletes, fun hw hr ha => ?readCompletes⟩
  case writeFails =>
    exact ppuStep_of_services_error (services_of_takeWrite_error
      ((takeWrite_some hw).trans (serviceWrite_data_past v { s with bus := _ } hs ha)))
  case readFails =>
    exact ppuStep_of_services_error ((services_of_takeWrite (takeWrite_none hw)).trans
      ((takeRead_some hr).trans (serviceRead_data_past { s with bus := _ } hs ha)))
  case failure =>
    refine ⟨?pending, ?address⟩
    case pending =>
      refine Classical.byContradiction fun hnone => ?_
      obtain ⟨hnoWrite, hnoRead⟩ := not_or.mp hnone
      obtain ⟨t, ht⟩ := ppuStep_completes s (not_exists.mp hnoWrite) hnoRead
      rw [ht] at he
      nomatch he
    case address =>
      cases hserv : services s with
      | ok t =>
        rw [ppuStep_of_services hserv] at he
        nomatch he
      | error a =>
        rw [ppuStep_of_services_error hserv] at he
        cases he
        have hsize := services_error hserv
        rw [hs] at hsize
        exact ⟨a, rfl, hsize⟩
  case notRefused =>
    have hends := ppuStep_ends s
    rw [he] at hends
    exact hends
  case writeCompletes =>
    obtain ⟨t, ht⟩ := serviceWrite_data_completes v { s with bus := { s.bus with pendingWrite := none } } hs ha
    have hwrite : takeWrite s = .ok t := (takeWrite_some hw).trans ht
    obtain ⟨-, -, hread, -⟩ := takeWrite_frame s t hwrite
    obtain ⟨u, hu⟩ := takeRead_completes (hread ▸ hr)
    exact ⟨_, ppuStep_of_services ((services_of_takeWrite hwrite).trans hu)⟩
  case readCompletes =>
    obtain ⟨t, ht⟩ := serviceRead_data_completes { s with bus := { s.bus with pendingRead := none } } hs ha
    exact ⟨_, ppuStep_of_services ((services_of_takeWrite (takeWrite_none hw)).trans ((takeRead_some hr).trans ht))⟩

end Sys2Proof.Machine
end

section
/-! SUPPORT. A completed PPU step: its two phases, what it publishes, and the address-toggle latches over several steps
(48_ppu_latch_engine R179, R184 to R186, R200, R201). -/

namespace Sys2Proof.Machine

/-! ## The published status -/

/-- `StatusByte()`, bit by bit (48 R200). -/
theorem Ppu.statusByte_bits (p : Ppu) :
    p.statusByte.getLsbD 7 = p.vblank ∧ p.statusByte.getLsbD 6 = p.spr0Hit ∧
      p.statusByte.getLsbD 5 = p.sprOverflow := by
  unfold Ppu.statusByte
  cases p.vblank <;> cases p.spr0Hit <;> cases p.sprOverflow <;> decide

/-- Settles O48: the phases by `services_cases`, and the rest by the frame of the step. -/
theorem ppuStepPublishes : Obligations.PpuStepPublishes := by
  intro s t ht
  obtain ⟨hside, hwrite, hread, hview, -⟩ := ppuStep_frame s t ht
  obtain ⟨s2, hs2, rfl⟩ := ppuStep_cases s t ht
  obtain ⟨s1, hw, hr⟩ := services_cases s s2 hs2
  obtain ⟨-, -, hpending, -⟩ := takeWrite_frame s s1 hw
  obtain ⟨hvblank, hhit, hoverflow⟩ := Ppu.statusByte_bits (publishStatus (tick s2)).ppu
  rw [hview]
  refine ⟨⟨s1, s2, hs2, ?write, ?read, rfl⟩, hwrite, hread, hvblank, hhit, hoverflow, Ppu.statusByte_low _, hside.cpu,
    fun a => ?peek, hside.host, hside.cfg⟩
  case write =>
    cases hslot : s.bus.pendingWrite with
    | none =>
      rw [takeWrite_none hslot] at hw
      cases hw
      rfl
    | some slot => exact (takeWrite_some hslot).symm.trans hw
  case read =>
    cases hslot : s.bus.pendingRead with
    | none =>
      rw [takeRead_none (hpending.trans hslot)] at hr
      cases hr
      rfl
    | some r => exact (takeRead_some (hpending.trans hslot)).symm.trans hr
  case peek => rw [State.peek, State.peek, hside.mem]

/-! ## The toggles -/

/-- The latches after a step are those its services leave (48 R179, 49 R221). -/
theorem ppuStep_toggles {s u : State} (h : services s = .ok u) :
    ∃ t, ppuStep s = .next t ∧ t.ppu.addr = u.ppu.addr ∧ t.ppu.scroll = u.ppu.scroll ∧ t.bus.pendingRead = none := by
  have hstep := ppuStep_of_services h
  obtain ⟨-, -, -, -, hscroll, haddr, -⟩ := tick_frame u
  obtain ⟨-, -, hread, -⟩ := ppuStep_frame s _ hstep
  exact ⟨_, hstep, haddr, hscroll, hread⟩

/-- A step with a STATUS read pending, and no DATA write, leaves both toggles at "expect high byte" (48 R193). -/
theorem ppuStep_statusRead {s : State} (hw : ∀ v, s.bus.pendingWrite ≠ some (v, .data))
    (hr : s.bus.pendingRead = some .status) :
    ∃ t, ppuStep s = .next t ∧ t.ppu.addr.expectHi = true ∧ t.ppu.scroll.expectHi = true ∧
      t.bus.pendingRead = none := by
  obtain ⟨t, ht⟩ := ppuStep_completes s hw (by simp [hr])
  obtain ⟨u, hu, -⟩ := ppuStep_cases s t ht
  obtain ⟨v, hv, hvu⟩ := services_cases s u hu
  obtain ⟨-, -, hpending, -⟩ := takeWrite_frame s v hv
  rw [takeRead_some (hpending.trans hr)] at hvu
  cases hvu
  obtain ⟨t', ht', haddr, hscroll, hread⟩ := ppuStep_toggles hu
  refine ⟨t', ht', ?_, ?_, hread⟩
  · rw [haddr]; rfl
  · rw [hscroll]; rfl

/-- A register write with no read pending is serviced by the next step (48 R184 to R186). -/
theorem ppuStep_registerWrite {a : Word} {r : PpuReg} (ha : ppuRegAt a = some r) (v : Byte) {s u : State}
    (h : s.bus.pendingRead = none)
    (hu : serviceWrite r v { s with bus := { s.bus with pendingWrite := none } } = .ok u) :
    ∃ t, ppuStep (memWrite a v s) = .next t ∧ t.ppu.addr = u.ppu.addr ∧ t.ppu.scroll = u.ppu.scroll ∧
      t.bus.pendingRead = none := by
  have hwrite : takeWrite (memWrite a v s) = .ok u := by rw [memWrite_register a v s ha]; exact hu
  obtain ⟨-, -, hread, -⟩ := takeWrite_frame _ u hwrite
  rw [memWrite_pendingRead, h] at hread
  exact ppuStep_toggles ((services_of_takeWrite hwrite).trans (takeRead_none hread))

/-- A write of ADDRESS, serviced (48 R192). -/
theorem ppuStep_addressWrite (v : Byte) {s : State} (h : s.bus.pendingRead = none) :
    ∃ t, ppuStep (memWrite 0x2006 v s) = .next t ∧ t.ppu.addr = s.ppu.addr.write v ∧ t.bus.pendingRead = none := by
  obtain ⟨t, ht, haddr, -, hread⟩ := ppuStep_registerWrite (a := 0x2006) (r := .address) rfl v h rfl
  exact ⟨t, ht, haddr, hread⟩

/-- A write of SCROLL, serviced (48 R192). -/
theorem ppuStep_scrollWrite (v : Byte) {s : State} (h : s.bus.pendingRead = none) :
    ∃ t, ppuStep (memWrite 0x2005 v s) = .next t ∧ t.ppu.scroll = s.ppu.scroll.write v ∧ t.bus.pendingRead = none := by
  obtain ⟨t, ht, -, hscroll, hread⟩ := ppuStep_registerWrite (a := 0x2005) (r := .scroll) rfl v h rfl
  exact ⟨t, ht, hscroll, hread⟩

/-- Two writes of a latch that expects its high byte set it whole (48 R183). -/
theorem ToggleLatch.write_write {l : ToggleLatch} (h : l.expectHi = true) (hi lo : Byte) :
    (l.write hi).write lo = ⟨hi, lo, true⟩ := by
  simp [ToggleLatch.write, h]

/-- Settles O45: the STATUS read leaves both toggles at "expect high byte", and two writes from there set the latch. -/
theorem toggleLaw : Obligations.ToggleLaw := by
  intro h l s hs
  have hread : (memRead 0x2002 s).2.bus.pendingRead = some .status := memRead_pendingRead 0x2002 s
  obtain ⟨s1, hs1, haddr, hscroll, hnone⟩ := ppuStep_statusRead (by rwa [memRead_pendingWrite]) hread
  refine ⟨?address, ?scroll⟩
  case address =>
    obtain ⟨s2, hs2, haddr2, hnone2⟩ := ppuStep_addressWrite h hnone
    obtain ⟨s3, hs3, haddr3, -⟩ := ppuStep_addressWrite l hnone2
    have hlatch : s3.ppu.addr = ⟨h, l, true⟩ := by rw [haddr3, haddr2, ToggleLatch.write_write haddr]
    refine ⟨s1, s2, s3, hs1, hs2, hs3, ?_⟩
    rw [hlatch]
    rfl
  case scroll =>
    obtain ⟨s2, hs2, hscroll2, hnone2⟩ := ppuStep_scrollWrite h hnone
    obtain ⟨s3, hs3, hscroll3, -⟩ := ppuStep_scrollWrite l hnone2
    have hlatch : s3.ppu.scroll = ⟨h, l, true⟩ := by rw [hscroll3, hscroll2, ToggleLatch.write_write hscroll]
    refine ⟨s1, s2, s3, hs1, hs2, hs3, ?_⟩
    rw [hlatch]
    exact ⟨rfl, rfl⟩

end Sys2Proof.Machine
end

section
/-! SUPPORT. The port `oam_dma` (48_ppu_latch_engine R198). -/

namespace Sys2Proof.Machine

/-- An address the writes do not reach keeps its byte. -/
theorem oamDmaFrom_read_other (c : Byte) (bytes : List Byte) (i : Nat) (oam : Memory) (a : Nat)
    (ha : ∀ k, k < bytes.length → a ≠ (c.toNat + (i + k)) % 256) :
    (oamDmaFrom c bytes i oam).read a = oam.read a := by
  induction bytes generalizing i oam with
  | nil => rfl
  | cons v vs ih =>
    have hhead : a ≠ (c.toNat + i) % 256 := ha 0 (Nat.succ_pos _)
    rw [oamDmaFrom, ih (i + 1) _ fun k hk => ?tail, Memory.read_write_ne _ _ _ _ hhead]
    case tail =>
      rw [Nat.add_assoc, Nat.add_comm 1 k]
      exact ha (k + 1) (Nat.succ_lt_succ hk)

/-- Up to 256 writes go to different bytes, so each is there at the end. -/
theorem oamDmaFrom_read (c : Byte) (bytes : List Byte) (i : Nat) (oam : Memory) (hlen : bytes.length ≤ 256)
    {k : Nat} (hk : k < bytes.length) :
    (oamDmaFrom c bytes i oam).read ((c.toNat + (i + k)) % 256) = bytes[k] := by
  induction bytes generalizing i oam k with
  | nil => exact absurd hk (Nat.not_lt_zero k)
  | cons v vs ih =>
    rw [List.length_cons] at hlen hk
    cases k with
    | zero =>
      rw [oamDmaFrom, oamDmaFrom_read_other _ _ _ _ _ fun j hj => by omega]
      exact Memory.read_write_same _ _ _
    | succ k =>
      have hidx : i + (k + 1) = i + 1 + k := by omega
      rw [hidx]
      exact ih (i + 1) _ (by omega) (by omega)

/-- OAM_DATA writes one after another (48 R191) are the writes of the port, with the cursor moved past them. -/
theorem foldl_oamDataWrite (c : Byte) (bytes : List Byte) (i : Nat) (p : Ppu)
    (hp : p.oamAddr = c + BitVec.ofNat 8 i) :
    bytes.foldl (fun q v => q.oamDataWrite v) p =
      { p with oam := oamDmaFrom c bytes i p.oam, oamAddr := p.oamAddr + BitVec.ofNat 8 bytes.length } := by
  induction bytes generalizing i p with
  | nil => simp [oamDmaFrom]
  | cons v vs ih =>
    have hcursor : p.oamAddr.toNat = (c.toNat + i) % 256 := by simp [hp, BitVec.toNat_add]
    have hnext : p.oamAddr + 1 = c + BitVec.ofNat 8 (i + 1) := by
      rw [hp, BitVec.ofNat_add, BitVec.add_assoc]
      rfl
    rw [List.foldl_cons, ih (i + 1) (p.oamDataWrite v) hnext]
    simp only [Ppu.oamDataWrite, oamDmaFrom, hcursor, List.length_cons, Nat.add_comm vs.length 1, BitVec.ofNat_add,
      BitVec.add_assoc]
    rfl

/-- Settles O47: the bytes by `oamDmaFrom_read`; the OAM_DATA writes by `foldl_oamDataWrite`, as 256 of them bring the
cursor back. -/
theorem oamDmaPort : Obligations.OamDmaPort := by
  intro bytes s
  refine ⟨rfl, fun i hi => ?bytes, ?writes⟩
  case bytes =>
    have hlen : bytes.toList.length = 256 := bytes.length_toList
    have hread := oamDmaFrom_read s.ppu.oamAddr bytes.toList 0 s.ppu.oam (Nat.le_of_eq hlen) (hlen.symm ▸ hi)
    rw [Nat.zero_add] at hread
    rw [← Vector.getElem_toList (by rwa [hlen])]
    exact hread
  case writes =>
    rw [foldl_oamDataWrite s.ppu.oamAddr bytes.toList 0 s.ppu (by simp), bytes.length_toList]
    simp [oamDma]

end Sys2Proof.Machine
end

section
/-! SUPPORT. What a PPU step does at each position (49_ppu_timing_render R204 to R209), and the NMI edge over it
(60_exceptions R228). -/

namespace Sys2Proof.Machine

/-! ## The tick -/

/-- The rendering of a position is one of three things (49 R204): evaluation at dot 0 of a visible scanline, a pixel
at its visible dots, both with rendering enabled, and nothing elsewhere. -/
theorem renderAt_cases (y dot : Nat) (s : State) :
    let shown := s.ppu.renderingEnabled = true ∧ y < s.cfg.visibleScanlines
    (shown ∧ dot = 0 ∧ renderAt y dot s = { s with ppu := evaluateSprites y s.ppu }) ∨
    (shown ∧ 1 ≤ dot ∧ dot ≤ s.cfg.visibleDots ∧ renderAt y dot s = emitPixel (dot - 1) y s) ∨
    (¬(shown ∧ dot ≤ s.cfg.visibleDots) ∧ renderAt y dot s = s) := by
  intro shown
  unfold renderAt
  by_cases hshown : shown
  · rw [if_pos (by simpa [shown] using hshown)]
    by_cases h0 : dot = 0
    · rw [if_pos h0]
      exact .inl ⟨hshown, h0, rfl⟩
    · rw [if_neg h0]
      by_cases hvisible : dot ≤ s.cfg.visibleDots
      · rw [if_pos hvisible]
        exact .inr (.inl ⟨hshown, Nat.pos_of_ne_zero h0, hvisible, rfl⟩)
      · rw [if_neg hvisible]
        exact .inr (.inr ⟨fun h => hvisible h.2, rfl⟩)
  · rw [if_neg (by simpa [shown] using hshown)]
    exact .inr (.inr ⟨fun h => hshown h.1, rfl⟩)

/-- The output colour has 6 bits (49 R219). -/
theorem outputColour_lt (p : Ppu) (off : Nat) : (outputColour p off).toNat < 64 := by
  have hmask : ∀ b : Byte, (b &&& 0x3F).toNat < 64 := fun b => by
    rw [BitVec.toNat_and]
    exact Nat.and_lt_two_pow (n := 6) _ (by decide)
  unfold outputColour
  dsimp only
  split
  · rw [BitVec.toNat_and]
    exact Nat.lt_of_le_of_lt Nat.and_le_left (hmask _)
  · exact hmask _

/-- What the background's and the sprites' reads leave of the PPU and the surface: all but the tile register. -/
theorem sprPixel_bgPixel_rest (x y : Nat) (s : State) :
    (sprPixel x y (bgPixel x y s).2).2.ppu = { s.ppu with tileReg := (bgPixel x y s).2.ppu.tileReg } ∧
      (sprPixel x y (bgPixel x y s).2).2.surface = s.surface := by
  rw [sprPixel_frame x y (bgPixel x y s).2, bgPixel_frame x y s]
  exact ⟨rfl, rfl⟩

/-- What a pixel puts on the surface: one call, with the colour of the multiplexer's offset (49 R219). -/
theorem emitPixel_surface (x y : Nat) (s : State) :
    (emitPixel x y s).surface = s.surface ++ [.setPixel x y
      (outputColour s.ppu (muxOffset (bgPixel x y s).1 (sprPixel x y (bgPixel x y s).2).1))] := by
  obtain ⟨hppu, hsurface⟩ := sprPixel_bgPixel_rest x y s
  simp only [emitPixel, hppu, hsurface]
  rfl

/-- Rendering never presents (49 R208). -/
theorem present_not_mem_renderAt (y dot : Nat) (s : State) (h : s.surface = []) :
    .present ∉ (renderAt y dot s).surface := by
  rcases renderAt_cases y dot s with ⟨-, -, hr⟩ | ⟨-, -, -, hr⟩ | ⟨-, hr⟩
  · simp [hr, h]
  · simp [hr, emitPixel_surface, h]
  · simp [hr, h]

/-- The two flags that rendering sets, after the events (49 R207). -/
theorem eventsAt_flags (y dot : Nat) (s : State) :
    (eventsAt y dot s).ppu.spr0Hit = (s.ppu.spr0Hit && decide ((y, dot) ≠ s.cfg.vblankClearPos)) ∧
      (eventsAt y dot s).ppu.sprOverflow = (s.ppu.sprOverflow && decide ((y, dot) ≠ s.cfg.vblankClearPos)) := by
  have hcfg : (if (y, dot) = s.cfg.vblankSetPos then { s with ppu := { s.ppu with vblank := true } } else s).cfg =
      s.cfg := by split <;> rfl
  unfold eventsAt
  simp only [hcfg]
  split <;> split <;> split <;> simp_all

/-- What a tick leaves of the rendering of its position: the tile register, the chr space's state and, but at (261, 1),
the two flags it sets (49 R204). -/
theorem tick_rendered (s : State) (h : s.cfg.standard) :
    let u := renderAt s.ppu.scanline s.ppu.dot { s with surface := [] }
    (tick s).ppu.tileReg = u.ppu.tileReg ∧ (tick s).bus.ext = u.bus.ext ∧
      (s.ppu.scanline ≠ 261 → (tick s).ppu.spr0Hit = u.ppu.spr0Hit ∧ (tick s).ppu.sprOverflow = u.ppu.sprOverflow) := by
  intro u
  have hclear : u.cfg.vblankClearPos = (261, 1) := by
    rw [(renderAt_frame s.ppu.scanline s.ppu.dot { s with surface := [] }).cfg]
    show s.cfg.vblankClearPos = _
    rw [h]
  obtain ⟨hhit, hoverflow⟩ := eventsAt_flags s.ppu.scanline s.ppu.dot u
  rw [hclear] at hhit hoverflow
  have hframe := eventsAt_frame s.ppu.scanline s.ppu.dot u
  obtain ⟨-, hhit', hoverflow', -⟩ :=
    advance_rest (eventsAt s.ppu.scanline s.ppu.dot u).cfg (eventsAt s.ppu.scanline s.ppu.dot u).ppu
  refine ⟨?tile, ?ext, fun hne => ?flags⟩
  case tile =>
    show (advance _ (eventsAt s.ppu.scanline s.ppu.dot u).ppu).tileReg = _
    rw [advance_frame, hframe]
  case ext =>
    show (eventsAt s.ppu.scanline s.ppu.dot u).bus.ext = _
    rw [hframe]
  case flags =>
    have hpos : (s.ppu.scanline, s.ppu.dot) ≠ (261, 1) := fun e => hne (congrArg Prod.fst e)
    rw [decide_eq_true hpos, Bool.and_true] at hhit hoverflow
    exact ⟨hhit'.trans hhit, hoverflow'.trans hoverflow⟩

/-! ## The step -/

/-- Settles O41: the run loop's note after the step, as the step leaves the run loop alone. -/
theorem nmiEdge : Obligations.NmiEdge := by
  intro s t ht
  obtain ⟨u, hu, hnote⟩ := andThen_eq_next.mp ht
  cases hnote
  obtain ⟨hside, -⟩ := ppuStep_frame _ u hu
  refine ⟨rfl, ?_⟩
  show (u.host.nmiPending || (!nmiOutput s && nmiOutput u)) = true ↔ _ ∨ (nmiOutput s = false ∧ nmiOutput u = true)
  rw [hside.host]
  simp

/-- Settles O49: the events by `tick_events`, where the services have left vblank as `takeRead_frame` says, and the
counters by the frame of the step. -/
theorem positionEvents : Obligations.PositionEvents := by
  intro s t hs htiming ht pos
  obtain ⟨-, -, -, -, hcounters⟩ := ppuStep_frame s t ht
  obtain ⟨u, hu, rfl⟩ := ppuStep_cases s t ht
  obtain ⟨hframe, -⟩ := services_frame s u hu
  have hpos : (u.ppu.scanline, u.ppu.dot) = pos := by rw [hframe.counters.scanline, hframe.counters.dot]
  have hvserv : u.ppu.vblank = (s.ppu.vblank && s.bus.pendingRead != some .status) := by
    obtain ⟨v, hv, hvu⟩ := services_cases s u hu
    obtain ⟨-, -, hpending, hvblank, -⟩ := takeWrite_frame s v hv
    obtain ⟨-, -, -, hvblank', -⟩ := takeRead_frame v u hvu
    rw [hvblank', hvblank, hpending]
  obtain ⟨hvblank, hclear, hsurface, -⟩ := tick_events u (by rw [hframe.cfg]; exact hs)
  rw [hpos] at hvblank hclear hsurface
  have hcycle : (advance s.cfg s.ppu).cycle = (s.ppu.cycle + 1) % 89342 := by
    obtain ⟨hlt, -⟩ := htiming
    rw [standard_frameCycles hs] at hlt
    rw [advance_cycle, standard_frameCycles hs]
    split <;> omega
  have hdots : s.cfg.dotsPerScanline = 341 := by rw [hs]
  have hwidth : s.cfg.frameCounterWidth = 32 := by rw [hs]
  refine ⟨?vblank, hclear, ?present, hcounters.cycle.trans hcycle, ?scanline, ?dot, ?frames, ?parity⟩
  case vblank =>
    show (tick u).ppu.vblank = true ↔ _
    rw [hvblank, hvserv]
    by_cases hset : pos = (241, 1)
    · simp [hset]
    · by_cases hclr : pos = (261, 1) <;> simp [hset, hclr]
  case present =>
    have hnone := present_not_mem_renderAt u.ppu.scanline u.ppu.dot { u with surface := [] } rfl
    show .present ∈ (tick u).surface ↔ _
    rw [hsurface]
    by_cases hpres : pos = (240, 0) <;> simp [hpres, hnone]
  case scanline => rw [hcounters.scanline, hcounters.cycle, advance_scanline, hdots]
  case dot => rw [hcounters.dot, hcounters.cycle, advance_dot, hdots]
  case frames => rw [hcounters.frames, advance_frames, standard_frameCycles hs, hwidth]
  case parity => rw [hcounters.oddFrame, advance_oddFrame, standard_frameCycles hs]

/-- Settles O50: the three cases of the position's rendering, with what the events and the services leave of it. -/
theorem pixelSchedule : Obligations.PixelSchedule := by
  intro s t hs ht
  obtain ⟨u, hu, rfl⟩ := ppuStep_cases s t ht
  obtain ⟨hframe, -⟩ := services_frame s u hu
  have hu' : u.cfg.standard := by rw [hframe.cfg]; exact hs
  refine ⟨u, hu, ?_⟩
  intro y dot shown emitted
  obtain ⟨-, -, hsurface, hsecondary, honLine, -⟩ := tick_events u hu'
  obtain ⟨htile, hext, hflags⟩ := tick_rendered u hu'
  have hcases := renderAt_cases u.ppu.scanline u.ppu.dot { u with surface := [] }
  have hlines : u.cfg.visibleScanlines = 240 := by rw [hu']
  have hdots : u.cfg.visibleDots = 256 := by rw [hu']
  simp only [hlines, hdots, hframe.counters.scanline, hframe.counters.dot]
    at hsurface hsecondary honLine htile hext hflags hcases
  have hvisible : shown → (y, dot) ≠ (240, 0) ∧ y ≠ 261 := by
    rintro ⟨-, hy⟩
    exact ⟨fun e => Nat.ne_of_lt hy (congrArg Prod.fst e), by omega⟩
  have hnoPixel : ∀ x' y' c,
      SurfaceCall.setPixel x' y' c ∉ (if (y, dot) = (240, 0) then [SurfaceCall.present] else []) :=
    fun x' y' c => by split <;> simp
  rcases hcases with ⟨hshown, h0, hr⟩ | ⟨hshown, h1, h256, hr⟩ | ⟨hnot, hr⟩
  all_goals rw [hr] at hsurface hsecondary honLine htile hext hflags
  case inl =>
    obtain ⟨-, hline⟩ := hvisible hshown
    refine ⟨fun _ _ => ⟨hsecondary, honLine, (hflags hline).2⟩, fun hn => absurd ⟨hshown, h0⟩ hn,
      fun _ h1 _ => absurd h0 (Nat.ne_of_gt h1), fun _ => ⟨fun x' y' c => ?_, htile.trans ?_, hext⟩⟩
    · exact hsurface ▸ hnoPixel x' y' c
    · rw [evaluateSprites_frame]
      exact hframe.tileReg
  case inr.inl =>
    obtain ⟨hpresent, hline⟩ := hvisible hshown
    have hsame : (tick u).surface = emitted.surface := by rw [hsurface, if_neg hpresent, List.append_nil]
    have hkeeps := emitPixel_frame (dot - 1) y { u with surface := [] }
    refine ⟨fun _ h0 => absurd h0 (Nat.ne_of_gt h1), fun _ => ⟨hsecondary.trans ?_, honLine.trans ?_⟩,
      fun _ _ _ => ⟨hsame, htile, (hflags hline).1, hext, _, outputColour_lt _ _,
        hsame.trans (emitPixel_surface _ _ _)⟩,
      fun hn => absurd ⟨hshown, h1, h256⟩ hn⟩
    · rw [hkeeps]
      exact hframe.secondary
    · rw [hkeeps]
      exact hframe.spr0OnLine
  case inr.inr =>
    refine ⟨fun hshown h0 => absurd ⟨hshown, ?_⟩ hnot,
      fun _ => ⟨hsecondary.trans hframe.secondary, honLine.trans hframe.spr0OnLine⟩,
      fun hshown _ h256 => absurd ⟨hshown, h256⟩ hnot,
      fun _ => ⟨fun x' y' c => hsurface ▸ hnoPixel x' y' c, htile.trans hframe.tileReg, hext⟩⟩
    rw [show s.ppu.dot = 0 from h0]
    exact Nat.zero_le _

end Sys2Proof.Machine
end

section
/-! SUPPORT. Sprite evaluation (49_ppu_timing_render R211 to R214). -/

namespace Sys2Proof.Machine

/-- Whether sprite i of primary OAM covers a scanline (49 R211, R213). -/
def Ppu.covers (p : Ppu) (scanline i : Nat) : Bool := inRange scanline p.spriteHeight (p.sprite i).y

/-- Record n gets sprite i (49 R211, R214). -/
def Ppu.stage (p : Ppu) (n i : Nat) (h : n < 8) : Ppu :=
  { p with secondary := p.secondary.set n (p.sprite i) h, spr0OnLine := p.spr0OnLine || i == 0 }

section

variable {scanline i : Nat} {is : List Nat} {n : Nat} {p : Ppu}

theorem evaluateFrom_skips (hc : ¬p.covers scanline i = true) :
    evaluateFrom scanline (i :: is) n p = evaluateFrom scanline is n p := if_neg hc

theorem evaluateFrom_stages (hc : p.covers scanline i = true) (hn : n < 8) :
    evaluateFrom scanline (i :: is) n p = evaluateFrom scanline is (n + 1) (p.stage n i hn) :=
  (if_pos hc).trans (dif_pos hn)

theorem evaluateFrom_overflows (hc : p.covers scanline i = true) (hn : ¬n < 8) :
    evaluateFrom scanline (i :: is) n p = { p with sprOverflow := true } := (if_pos hc).trans (dif_neg hn)

end

/-- With n records filled, record n + k gets the k-th sprite found, and a record without one is as it was. -/
theorem evaluateFrom_secondary (scanline : Nat) (is : List Nat) (n : Nat) (p : Ppu) (k : Nat) (hk : k < 8) :
    (evaluateFrom scanline is n p).secondary[k] =
      if k < n then p.secondary[k]
      else ((is.filter (p.covers scanline))[k - n]?.map p.sprite).getD p.secondary[k] := by
  induction is generalizing n p with
  | nil => simp [evaluateFrom]
  | cons i is ih =>
    by_cases hc : p.covers scanline i = true
    · rw [List.filter_cons_of_pos hc]
      by_cases hn : n < 8
      · rw [evaluateFrom_stages hc hn]
        refine (ih (n + 1) (p.stage n i hn)).trans ?_
        obtain hlt | rfl | hgt := Nat.lt_trichotomy k n
        · rw [if_pos (by omega), if_pos hlt]
          exact Vector.getElem_set_ne hn hk (by omega)
        · rw [if_pos (by omega), if_neg (by omega), Nat.sub_self]
          exact Vector.getElem_set_self hn
        · rw [if_neg (by omega), if_neg (by omega), show k - n = k - (n + 1) + 1 by omega]
          exact congrArg _ (Vector.getElem_set_ne hn hk (by omega))
      · rw [evaluateFrom_overflows hc hn, if_pos (by omega)]
    · rw [evaluateFrom_skips hc, List.filter_cons_of_neg hc]
      exact ih n p

/-- With n records filled, sprite 0 is on the line if it is among the sprites that still fit (49 R214). -/
theorem evaluateFrom_spr0OnLine (scanline : Nat) (is : List Nat) (n : Nat) (p : Ppu) :
    (evaluateFrom scanline is n p).spr0OnLine = true ↔
      p.spr0OnLine = true ∨ 0 ∈ (is.filter (p.covers scanline)).take (8 - n) := by
  induction is generalizing n p with
  | nil => simp [evaluateFrom]
  | cons i is ih =>
    by_cases hc : p.covers scanline i = true
    · rw [List.filter_cons_of_pos hc]
      by_cases hn : n < 8
      · have hstage : (p.stage n i hn).spr0OnLine = true ↔ p.spr0OnLine = true ∨ 0 = i := by
          rw [Ppu.stage, Bool.or_eq_true, beq_iff_eq, eq_comm (a := i)]
        rw [evaluateFrom_stages hc hn, ih (n + 1) (p.stage n i hn), hstage, show 8 - n = 8 - (n + 1) + 1 by omega,
          List.take_succ_cons, List.mem_cons, or_assoc]
        rfl
      · rw [evaluateFrom_overflows hc hn, Nat.sub_eq_zero_of_le (Nat.not_lt.mp hn), List.take_zero]
        simp
    · rw [evaluateFrom_skips hc, List.filter_cons_of_neg hc]
      exact ih n p

/-- With n records filled, a 9th sprite sets overflow (49 R211). -/
theorem evaluateFrom_sprOverflow (scanline : Nat) (is : List Nat) (n : Nat) (p : Ppu) (hn : n ≤ 8) :
    (evaluateFrom scanline is n p).sprOverflow = true ↔
      p.sprOverflow = true ∨ 8 < n + (is.filter (p.covers scanline)).length := by
  induction is generalizing n p with
  | nil => exact (or_iff_left (Nat.not_lt.mpr hn)).symm
  | cons i is ih =>
    by_cases hc : p.covers scanline i = true
    · rw [List.filter_cons_of_pos hc, List.length_cons]
      by_cases hlt : n < 8
      · rw [evaluateFrom_stages hc hlt, ih (n + 1) (p.stage n i hlt) hlt, Nat.add_assoc, Nat.add_comm 1]
        rfl
      · rw [evaluateFrom_overflows hc hlt]
        exact iff_of_true rfl (.inr (by omega))
    · rw [evaluateFrom_skips hc, List.filter_cons_of_neg hc]
      exact ih n p hn

/-- Sprite 0 is the first looked at, so it fits wherever it covers the line. -/
theorem zero_mem_take_filter_range (f : Nat → Bool) : 0 ∈ ((List.range 64).filter f).take 8 ↔ f 0 = true := by
  constructor
  · intro h
    exact (List.mem_filter.mp (List.mem_of_mem_take h)).2
  · intro h
    rw [List.range_succ_eq_map, List.filter_cons_of_pos h]
    exact List.mem_cons_self

/-- Settles O51: the records, the note of sprite 0 and the overflow by the three lemmas about the loop, from no record
filled; the frame by `evaluateSprites_frame`. -/
theorem spriteEvaluation : Obligations.SpriteEvaluation := by
  intro scanline p height covers found q
  have hcovers : covers = p.covers scanline := by
    funext i
    have hheight : ((p.spriteHeight : Nat) : Int) = height := by
      show ((if p.control.getLsbD 5 = true then 16 else 8 : Nat) : Int) = if p.control.getLsbD 5 = true then 16 else 8
      split <;> rfl
    rw [Ppu.covers, inRange, hheight]
    rfl
  have hfound : found = (List.range 64).filter ((resetSecondaryOam p).covers scanline) := by
    show (List.range 64).filter covers = _
    rw [hcovers]
    rfl
  refine ⟨fun n hn => ?records, ?spr0, ?overflow, evaluateSprites_frame scanline p⟩
  case records =>
    refine (evaluateFrom_secondary scanline (List.range 64) 0 (resetSecondaryOam p) n hn).trans ?_
    rw [if_neg (Nat.not_lt_zero n), Nat.sub_zero, ← hfound]
    cases found[n]? with
    | none => exact Vector.getElem_replicate hn
    | some i => rfl
  case spr0 =>
    refine (evaluateFrom_spr0OnLine scanline (List.range 64) 0 (resetSecondaryOam p)).trans ?_
    rw [hcovers, zero_mem_take_filter_range]
    exact or_iff_right Bool.false_ne_true
  case overflow =>
    refine (evaluateFrom_sprOverflow scanline (List.range 64) 0 (resetSecondaryOam p) (Nat.zero_le 8)).trans ?_
    rw [← hfound, Nat.zero_add]
    rfl

end Sys2Proof.Machine
end

section
/-! SUPPORT. The pixels (49_ppu_timing_render R216 to R221): the background's, a sprite record's, the sprites' and the
one emitted. -/

namespace Sys2Proof.Machine

/-! ## The background pixel -/

theorem mul_bitNat (n : Nat) (b : Bool) : n * bitNat b = if b = true then n else 0 := by
  cases b <;> simp [bitNat]

/-- A bit of a word's high byte. -/
theorem getLsbD_mkWord_high (hi lo : Byte) {i : Nat} (h : i < 8) :
    (mkWord hi lo).getLsbD (15 - i) = hi.getLsbD (7 - i) := by
  rw [mkWord, BitVec.getLsbD_append, if_neg (by omega), show 15 - i - 8 = 7 - i by omega]

/-- A bit of a word's low byte. -/
theorem getLsbD_mkWord_low (hi lo : Byte) (i : Nat) : (mkWord hi lo).getLsbD (7 - i) = lo.getLsbD (7 - i) := by
  rw [mkWord, BitVec.getLsbD_append, if_pos (by omega)]

/-- A 2-bit field of a byte, as a number. -/
theorem toNat_field (b : Byte) (k : Nat) : ((b >>> (2 * k)) &&& 3).toNat = b.toNat / 4 ^ k % 4 := by
  rw [BitVec.toNat_and, BitVec.toNat_ushiftRight, Nat.shiftRight_eq_div_pow, Nat.pow_mul]
  exact Nat.and_two_pow_sub_one_eq_mod _ 2

/-- Where the background is off or clipped it gives 0 and reads nothing (49 R216). -/
theorem bgPixel_off {x : Nat} (y : Nat) {s : State}
    (h : s.ppu.mask.getLsbD 3 = false ∨ (x < 8 ∧ s.ppu.mask.getLsbD 1 = false)) : bgPixel x y s = (0, s) :=
  if_pos (by simpa [Ppu.showBg, Ppu.bgLeft] using h)

/-- The shift of the palette's 2-bit field, by the quadrant the pixel (a, b) is in (49 R216). -/
theorem quadrant_shift (a b : Nat) :
    4 * (a / 8 % 4 / 2) + 2 * (b / 8 % 4 / 2) = 2 * (2 * (a / 16 % 2) + b / 16 % 2) := by omega

/-- Settles O52: `bgPixel` makes the four reads at these addresses; what is left is the arithmetic of the tile, of the
palette's 2-bit field and of the pattern's bits. -/
theorem backgroundPixel : Obligations.BackgroundPixel := by
  intro x y s wx wy table px py tile attr pal row lo hi bits
  refine ⟨fun hshow hleft => ?shown, bgPixel_off y⟩
  have hcond : ¬(!s.ppu.showBg || (decide (x < 8) && !s.ppu.bgLeft)) = true := by
    simpa [Ppu.showBg, Ppu.bgLeft, hshow] using hleft
  have hwx : (x + s.ppu.scroll.hi.toNat + 256 * bitNat (s.ppu.ntSelect.getLsbD 0)) % 512 = wx := by
    rw [mul_bitNat, Ppu.ntSelect, BitVec.getLsbD_extractLsb']
    rfl
  have hwy : (y + s.ppu.scroll.lo.toNat + 240 * bitNat (s.ppu.ntSelect.getLsbD 1)) % 480 = wy := by
    rw [mul_bitNat, Ppu.ntSelect, BitVec.getLsbD_extractLsb']
    rfl
  have hfine : wx % 8 = wx % 256 % 8 := by omega
  have hbit : wx % 256 % 8 < 8 := Nat.mod_lt _ (by decide)
  unfold bgPixel
  rw [if_neg hcond]
  simp only [hwx, hwy, hfine]
  simp only [Nat.div_div_eq_div_mul, Nat.reduceMul, quadrant_shift, toNat_field, mul_bitNat,
    getLsbD_mkWord_high _ _ hbit, getLsbD_mkWord_low, chrRead_ppu]
  rfl

end Sys2Proof.Machine
end

section
/-! SUPPORT. The sprites' pixel (49_ppu_timing_render R218): one record's, and the first opaque one. -/

namespace Sys2Proof.Machine

/-! ## One record -/

/-- A pattern address that is one is read from chr space (49 R218). -/
theorem patternRead_of_nonneg {pa : Int} (s : State) (h : 0 ≤ pa) : patternRead pa s = chrRead pa.toNat s := if_pos h

theorem patternPixel_eq (p0 p1 : Byte) (col : Nat) :
    patternPixel p0 p1 col =
      (if p0.getLsbD (7 - col) = true then 1 else 0) + (if p1.getLsbD (7 - col) = true then 2 else 0) := by
  rw [patternPixel, mul_bitNat]
  rfl

/-- The even tile of a pair (49 R218). -/
theorem toNat_and_0xFE (t : Byte) : (t &&& 0xFE).toNat = t.toNat / 2 * 2 := by
  revert t
  decide

/-- The table of a pair of tiles (49 R218). -/
theorem bitNat_getLsbD_zero (t : Byte) : bitNat (t.getLsbD 0) = t.toNat % 2 := by
  revert t
  decide

theorem toNat_and_three (a : Byte) : (a &&& 3).toNat = a.toNat % 4 := by
  rw [BitVec.toNat_and]
  exact Nat.and_two_pow_sub_one_eq_mod _ 2

/-- The pattern address (49 R218), in both sprite sizes. -/
theorem spritePatternAddr_eq (p : Ppu) (t : Byte) (row : Int) :
    spritePatternAddr p t row =
      if p.control.getLsbD 5 = true then
        0x1000 * ((t.toNat % 2 : Nat) : Int) + 16 * (((t.toNat / 2 * 2 : Nat) : Int) + row / 8) + row % 8
      else (if p.control.getLsbD 3 = true then 0x1000 else 0) + 16 * (t.toNat : Int) + row := by
  rw [spritePatternAddr, toNat_and_0xFE, bitNat_getLsbD_zero]
  have htable : 0x1000 * (bitNat p.sprTable : Int) = if p.control.getLsbD 3 = true then 0x1000 else 0 := by
    show 0x1000 * (bitNat (p.control.getLsbD 3) : Int) = _
    cases p.control.getLsbD 3 <;> rfl
  rw [htable]
  rfl

/-- A row that is not negative has a pattern address that is one. -/
theorem spritePatternAddr_nonneg (p : Ppu) (t : Byte) {row : Int} (h : 0 ≤ row) : 0 ≤ spritePatternAddr p t row := by
  rw [spritePatternAddr_eq]
  split
  · omega
  · split <;> omega

theorem beq_zero_and (n : Nat) (b : Bool) : (n == 0 && b) = decide (n = 0 ∧ b = true) := by
  rw [Bool.decide_and, Bool.decide_eq_true]
  rfl

/-- A record without the column gives no pixel and reads nothing (49 R218). -/
theorem recordPixel_outside (n : Nat) {r : SpriteRecord} {x : Nat} (y : Nat) (s : State)
    (h : r.y = 0xFF ∨ x < r.x.toNat ∨ r.x.toNat + 8 ≤ x) : recordPixel n r x y s = (none, s) := by
  by_cases hy : r.y = 0xFF
  · exact if_pos hy
  · have hcol : ¬(0 ≤ (x : Int) - (r.x.toNat : Int) ∧ (x : Int) - (r.x.toNat : Int) < 8) := by
      have := h.resolve_left hy
      omega
    exact (if_neg hy).trans (if_neg hcol)

/-- Settles O53: a record without the column by `recordPixel_outside`; on a covered scanline the row is not negative, so
neither is the address; and where the address is one, both planes are read from chr space. -/
theorem spriteRecordPixel : Obligations.SpriteRecordPixel := by
  intro x y n r s sx sy big height col row tile pa lo hi px
  have haddr : spritePatternAddr s.ppu r.tile row = pa := spritePatternAddr_eq s.ppu r.tile row
  refine ⟨recordPixel_outside n y s, fun hlo hhi => ?covered, fun hy hlo hhi hpa => ?pixel⟩
  case covered =>
    have hrow : 0 ≤ row := by
      dsimp only [row]
      split <;> omega
    exact haddr ▸ spritePatternAddr_nonneg s.ppu r.tile hrow
  case pixel =>
    have hcolumn : 0 ≤ (x : Int) - (r.x.toNat : Int) ∧ (x : Int) - (r.x.toNat : Int) < 8 := by omega
    have hcol : ((x : Int) - (r.x.toNat : Int)).toNat = x - sx := by omega
    have hrow : (if r.attr.getLsbD 7 = true then (s.ppu.spriteHeight : Int) - 1 - ((y : Int) - 1 - (r.y.toNat : Int))
      else (y : Int) - 1 - (r.y.toNat : Int)) = row := rfl
    unfold recordPixel
    rw [if_neg hy, if_pos hcolumn]
    simp only [hcol, hrow, haddr, patternRead_of_nonneg s hpa, patternRead_of_nonneg _ (show 0 ≤ pa + 8 by omega),
      patternPixel_eq, toNat_and_three, beq_zero_and]
    rfl

/-! ## The first opaque record -/

/-- The state that the reads of the first n records leave (49 R218). -/
def readsOf (x y : Nat) (rs : List SpriteRecord) (s : State) (n : Nat) : State :=
  (List.range n).foldl (fun u k => (recordPixel k (rs.getD k SpriteRecord.empty) x y u).2) s

/-- What record k gives at its turn. -/
def givenBy (x y : Nat) (rs : List SpriteRecord) (s : State) (k : Nat) : Option SpritePixel :=
  (recordPixel k (rs.getD k SpriteRecord.empty) x y (readsOf x y rs s k)).1

section

variable {x y : Nat} {rs : List SpriteRecord} {s : State} {n : Nat}

theorem readsOf_succ : readsOf x y rs s (n + 1) =
    (recordPixel n (rs.getD n SpriteRecord.empty) x y (readsOf x y rs s n)).2 := by
  rw [readsOf, List.range_succ, List.foldl_append]
  rfl

theorem firstOpaque_cons_some {r : SpriteRecord} {px : SpritePixel} (h : (recordPixel n r x y s).1 = some px) :
    firstOpaque x y (r :: rs) n s = (some px, (recordPixel n r x y s).2) := by
  simp only [firstOpaque, h]

theorem firstOpaque_cons_none {r : SpriteRecord} (h : (recordPixel n r x y s).1 = none) :
    firstOpaque x y (r :: rs) n s = firstOpaque x y rs (n + 1) (recordPixel n r x y s).2 := by
  simp only [firstOpaque, h]

theorem drop_eq_getD_cons (h : n < rs.length) : rs.drop n = rs.getD n SpriteRecord.empty :: rs.drop (n + 1) := by
  rw [List.drop_eq_getElem_cons h, List.getD_eq_getElem?_getD, List.getElem?_eq_getElem h, Option.getD_some]

/-- Where the first n records give no pixel, the loop goes on from record n. -/
theorem firstOpaque_skip (hn : n ≤ rs.length) (h : ∀ k, k < n → givenBy x y rs s k = none) :
    firstOpaque x y rs 0 s = firstOpaque x y (rs.drop n) n (readsOf x y rs s n) := by
  induction n with
  | zero => rfl
  | succ n ih =>
    rw [ih (Nat.le_of_succ_le hn) fun k hk => h k (Nat.lt_succ_of_lt hk), drop_eq_getD_cons hn,
      firstOpaque_cons_none (h n (Nat.lt_succ_self n)), readsOf_succ]

/-- The first record that gives a pixel gives the sprite pixel, and none after it is read (49 R218). -/
theorem firstOpaque_of_first {px : SpritePixel} (hn : n < rs.length) (hpx : givenBy x y rs s n = some px)
    (h : ∀ k, k < n → givenBy x y rs s k = none) : firstOpaque x y rs 0 s = (some px, readsOf x y rs s (n + 1)) := by
  rw [firstOpaque_skip (Nat.le_of_lt hn) h, drop_eq_getD_cons hn, firstOpaque_cons_some hpx, readsOf_succ]

/-- If no record gives a pixel there is none, and all are read (49 R218). -/
theorem firstOpaque_of_none (h : ∀ k, k < rs.length → givenBy x y rs s k = none) :
    firstOpaque x y rs 0 s = (none, readsOf x y rs s rs.length) := by
  rw [firstOpaque_skip (Nat.le_refl _) h, List.drop_length]
  rfl

/-- Only record 0 on a line with sprite 0 gives a pixel of sprite 0 (49 R218). -/
theorem recordPixel_is0 {r : SpriteRecord} {px : SpritePixel} (h : (recordPixel n r x y s).1 = some px)
    (h0 : px.is0 = true) : s.ppu.spr0OnLine = true := by
  unfold recordPixel at h
  dsimp only at h
  split at h
  · nomatch h
  · split at h
    · rw [Option.ite_none_left_eq_some] at h
      obtain ⟨-, hpx⟩ := h
      cases hpx
      exact (Bool.and_eq_true_iff.mp h0).2
    · nomatch h

theorem firstOpaque_is0 {px : SpritePixel} (h : (firstOpaque x y rs n s).1 = some px) (h0 : px.is0 = true) :
    s.ppu.spr0OnLine = true := by
  induction rs generalizing n s with
  | nil => nomatch h
  | cons r rs ih =>
    cases hr : (recordPixel n r x y s).1 with
    | some px' =>
      rw [firstOpaque_cons_some hr] at h
      cases h
      exact recordPixel_is0 hr h0
    | none =>
      rw [firstOpaque_cons_none hr] at h
      have honLine := ih h
      rw [recordPixel_frame n r x y s] at honLine
      exact honLine

end

/-! ## The emitted pixel -/

/-- Sprites are shown at x (49 R218). -/
abbrev Ppu.spritesAt (p : Ppu) (x : Nat) : Prop := p.mask.getLsbD 4 = true ∧ (x < 8 → p.mask.getLsbD 2 = true)

theorem sprPixel_off {x : Nat} (y : Nat) {s : State} (h : ¬s.ppu.spritesAt x) : sprPixel x y s = (none, s) := by
  have hcond : (!s.ppu.showSpr || (decide (x < 8) && !s.ppu.sprLeft)) = true := by
    cases hspr : s.ppu.showSpr with
    | false => rfl
    | true =>
      have hclip : ¬(x < 8 → s.ppu.sprLeft = true) := fun hleft => h ⟨hspr, hleft⟩
      obtain ⟨hx, hleft⟩ := Classical.not_imp.mp hclip
      rw [decide_eq_true hx, Bool.eq_false_iff.mpr hleft]
      rfl
  exact if_pos hcond

theorem sprPixel_on {x : Nat} (y : Nat) {s : State} (h : s.ppu.spritesAt x) :
    sprPixel x y s = firstOpaque x y s.ppu.secondary.toList 0 s := by
  refine if_neg ?_
  simpa [Ppu.spritesAt, Ppu.showSpr, Ppu.sprLeft] using h

/-- The background gives a pixel only where it is shown (49 R216). -/
theorem bgPixel_shown {x y : Nat} {s : State} (h : (bgPixel x y s).1 ≠ 0) :
    s.ppu.mask.getLsbD 3 = true ∧ (x < 8 → s.ppu.mask.getLsbD 1 = true) := by
  refine Classical.byContradiction fun hshown => h (congrArg Prod.fst (bgPixel_off y ?_))
  rwa [Classical.not_and_iff_not_or_not, Classical.not_imp, Bool.not_eq_true, Bool.not_eq_true] at hshown

/-- The output colour's mask (49 R219). -/
theorem outputColour_eq (p : Ppu) (off : Nat) :
    outputColour p off = palRead (BitVec.ofNat 5 off) p &&& (if p.mask.getLsbD 0 = true then 0x30 else 0x3F) := by
  unfold outputColour
  show (if p.mask.getLsbD 0 = true then _ else _) = _
  split
  · rw [BitVec.and_assoc]
    rfl
  · rfl

theorem hitsSprite0_iff (x b : Nat) (sp : Option SpritePixel) :
    hitsSprite0 x b sp = true ↔ ∃ px, sp = some px ∧ px.is0 = true ∧ b ≠ 0 ∧ x ≠ 255 := by
  cases sp with
  | none => simp [hitsSprite0]
  | some px => simp [hitsSprite0, and_assoc]

/-- The sprite is shown where the background is transparent or the sprite is in front (49 R219). -/
theorem muxOffset_some (b : Nat) (px : SpritePixel) :
    muxOffset b (some px) = if b = 0 ∨ px.behind = false then px.offset else b := by
  simp [muxOffset]

/-- Settles O54: the sprite pixel by the lemmas about the loop over the records; the surface by `emitPixel_surface`; a
hit needs a pixel of each layer, so both are shown; the rest is what the reads leave. -/
theorem pixelOutput : Obligations.PixelOutput := by
  intro x y s b sp t record upTo gives shown hit offset
  have hbg : b.2.ppu = { s.ppu with tileReg := b.2.ppu.tileReg } := congrArg State.ppu (bgPixel_frame x y s)
  have hshown : b.2.ppu.spritesAt x ↔ shown := by rw [hbg]
  have hlen : s.ppu.secondary.toList.length = 8 := s.ppu.secondary.length_toList
  have hloop : shown → sp = firstOpaque x y s.ppu.secondary.toList 0 b.2 := fun h => by
    have hsecondary : b.2.ppu.secondary = s.ppu.secondary := by rw [hbg]
    rw [← hsecondary]
    exact sprPixel_on y (hshown.mpr h)
  have hoff : ¬shown → sp = (none, b.2) := fun h => sprPixel_off y (mt hshown.mp h)
  obtain ⟨hppu, -⟩ := sprPixel_bgPixel_rest x y s
  refine ⟨hoff, fun h n px hn hpx hnone => ?first, fun h hnone => ?none, ?surface, ?spr0Hit, ?layers, ?ppu, ?bus,
    ?cpu, ?host, ?cfg⟩
  case first => exact (hloop h).trans (firstOpaque_of_first (hlen.symm ▸ hn) hpx hnone)
  case none =>
    have hall := firstOpaque_of_none (x := x) (y := y) (rs := s.ppu.secondary.toList) (s := b.2) (hlen.symm ▸ hnone)
    rw [hlen] at hall
    exact (hloop h).trans hall
  case surface =>
    have hoffset : muxOffset b.1 sp.1 = offset := by
      dsimp only [offset]
      cases sp.1 with
      | none => rfl
      | some px => exact muxOffset_some b.1 px
    rw [← hoffset, ← outputColour_eq]
    exact emitPixel_surface x y s
  case spr0Hit =>
    show (sp.2.ppu.spr0Hit || hitsSprite0 x b.1 sp.1) = true ↔ _
    rw [hppu, Bool.or_eq_true, hitsSprite0_iff]
  case layers =>
    rintro ⟨px, hpx, his0, hopaque, -⟩
    obtain ⟨hbgShown, hbgLeft⟩ := bgPixel_shown hopaque
    have hspr : shown := Classical.byContradiction fun h => by
      rw [hoff h] at hpx
      nomatch hpx
    have honLine : b.2.ppu.spr0OnLine = true := firstOpaque_is0 (hloop hspr ▸ hpx) his0
    rw [hbg] at honLine
    exact ⟨hbgShown, hspr.1, honLine, fun hx => ⟨hbgLeft hx, hspr.2 hx⟩⟩
  case ppu =>
    show { sp.2.ppu with spr0Hit := t.ppu.spr0Hit } = _
    rw [hppu]
  case bus => exact (congrArg State.bus (emitPixel_frame x y s) :)
  case cpu => exact (congrArg State.cpu (emitPixel_frame x y s) :)
  case host => exact (congrArg State.host (emitPixel_frame x y s) :)
  case cfg => exact (congrArg State.cfg (emitPixel_frame x y s) :)

end Sys2Proof.Machine
end

section
/-! SUPPORT. The run loop's calls on the block (60_exceptions R225 to R230, 70_reset_and_hazards R244 to R248, R251,
R258): the entries, the resets, the boundary decision and the calls that follow each. -/

namespace Sys2Proof.Machine

/-! ## The entries -/

/-- Settles O38: both entries by the frames of `cpu_nmi` and `cpu_irq`; a masked `cpu_irq` only records its outcome. -/
theorem interruptEntries : Obligations.InterruptEntries := by
  intro s hs
  refine ⟨⟨_, rfl, cpuNmi_entered (s.setOutcome .ok) hs⟩,
    fun hi => ⟨_, rfl, cpuIrq_entered (s.setOutcome .ok) hs hi⟩, fun hi => ?_⟩
  have hmasked : cpuIrq (s.setOutcome .ok) = (s.setOutcome .ok).setOutcome .masked := if_pos hi
  exact congrArg Host.Outcome.next hmasked

/-- The flags a reset writes (70_reset R244). -/
theorem getFlag_reset (p : Byte) (f : Flag) :
    getFlag (putFlag (putFlag (putFlag p .i true) .u true) .b false) f = match f with
      | .i => true
      | .u => true
      | .b => false
      | f => getFlag p f := by
  simp only [getFlag_putFlag]
  cases f <;> rfl

/-- Settles O39: `cpu_reset` is two reads and the CPU's registers, by `cpuReset_eq`; the reads do not look at the
outcome recorded before them. -/
theorem cpuResetEntry : Obligations.CpuResetEntry := by
  intro s hs
  have hread : read16 0xFFFC (s.setOutcome .ok) =
      ((read16 0xFFFC s).1, { (read16 0xFFFC s).2 with host := (s.setOutcome .ok).host }) := read16_withHost _ s _
  have hreset := cpuReset_eq (s.setOutcome .ok) hs
  have hnoStore := read16_noStore 0xFFFC (s.setOutcome .ok)
  rw [hread] at hreset hnoStore
  refine ⟨_, congrArg Host.Outcome.next hreset, rfl, getFlag_reset s.cpu.p, hnoStore.setCpu _, rfl,
    read16_pendingRead 0xFFFC s rfl rfl, fun hb => ?_⟩
  rw [read16_eq 0xFFFC s hb rfl rfl]
  exact ⟨rfl, (NoAccess.refl (s.setOutcome .ok)).setCpu _⟩

/-! ## The boundary decision -/

theorem boundaryEntry_reset {s : State} {k : ResetKind} (h : s.host.resetRequest = some k) :
    boundaryEntry s = some (.reset k) := by simp only [boundaryEntry, h]

theorem boundaryEntry_of_noReset {s : State} (h : s.host.resetRequest = none) :
    boundaryEntry s =
      if s.host.nmiPending then some .nmi else if s.host.irqLine && !s.flag .i then some .irq else none := by
  simp only [boundaryEntry, h]

section

variable {s : State}

theorem boundary_of_none (h : boundaryEntry s = none) : boundary s = s := by simp only [boundary, h]

theorem boundary_of_reset {k : ResetKind} (h : boundaryEntry s = some (.reset k)) : boundary s = deliverReset k s := by
  simp only [boundary, h]

theorem boundary_of_nmi (h : boundaryEntry s = some .nmi) :
    boundary s = cpuNmi { s with host := { s.host with nmiPending := false } } := by simp only [boundary, h]

theorem boundary_of_irq (h : boundaryEntry s = some .irq) : boundary s = cpuIrq s := by simp only [boundary, h]

end

theorem cpuNmi_host (s : State) : (cpuNmi s).host = s.host := (CpuOnly.refl s).takeException.host

theorem cpuReset_host (s : State) : (cpuReset s).host = s.host := (CpuOnly.refl s).cpuReset.host

/-- An IRQ that is entered leaves the run loop; a masked one records its outcome (60_exceptions R227). -/
theorem cpuIrq_host (s : State) :
    (cpuIrq s).host = if s.flag .i = true then { s.host with outcome := .masked } else s.host := by
  unfold cpuIrq
  split
  · rfl
  · exact (CpuOnly.refl s).takeException.host

/-- A console reset, item by item of the state (70_reset R247, R248). -/
theorem deliverReset_console (s : State) :
    deliverReset .console s =
      { resetPpu (cpuReset s) with host := { s.host with resetRequest := none, nmiPending := false } } := by
  rw [deliverReset, cpuReset_withHost, resetPpu_eq, resetPpu_eq]

/-- Settles O40: the entry by R230's priority, and what it then does by its own definition. -/
theorem boundaryPriority : Obligations.BoundaryPriority := by
  intro s
  refine ⟨fun hr => boundary_of_reset (boundaryEntry_reset hr), fun hr => ?consoleReset,
    fun hr hn => boundary_of_nmi ?nmi, fun hr hn hl hi => boundary_of_irq ?irq,
    fun hr hn hmask => boundary_of_none ?none⟩
  case consoleReset =>
    rw [boundary_of_reset (boundaryEntry_reset hr), deliverReset_console]
    refine ⟨rfl, rfl, ?_, rfl, rfl, rfl, rfl⟩
    show (ppuReset (cpuReset s)).ppu = _
    simp only [ppuReset, (CpuOnly.refl s).cpuReset.ppu]
  case nmi => rw [boundaryEntry_of_noReset hr, if_pos hn]
  case irq => simp [boundaryEntry_of_noReset hr, hn, hl, hi]
  case none =>
    rw [boundaryEntry_of_noReset hr, hn]
    rcases hmask with hl | hi
    · simp [hl]
    · simp [hi]

/-! ## The resets -/

/-- Settles O57: nothing is listed in any memory of the reset state, and its counters are 0. -/
theorem resetMeetsInvariant : Obligations.ResetMeetsInvariant where
  mem := by decide
  chr := by decide
  oam := by decide
  palette := by decide
  timing := by decide
  status := by decide
  statusView := by decide

/-- Settles O58: what the resets leave, by their definitions and, for the CPU's first one, by `cpuReset_eq`; the values
of the reset state by evaluation. -/
theorem resetState : Obligations.ResetState := by
  refine ⟨fun s => ⟨rfl, rfl, ⟨_, rfl, rfl, rfl, rfl, rfl⟩, fun hs => ?firstReset⟩, rfl, rfl, rfl, rfl, rfl, rfl, rfl,
    rfl, rfl, rfl, rfl, rfl, rfl, fun n hn => Vector.getElem_replicate hn, rfl, rfl, rfl, rfl, rfl, rfl, rfl, rfl, rfl,
    rfl, rfl, rfl⟩
  case firstReset =>
    have hread : (read16 0xFFFC (powerOn s)).1 = (read16 0xFFFC s).1 :=
      (congrArg Prod.fst (read16_withCpu 0xFFFC s (powerOn s).cpu) :)
    have hsp : (powerOn s).cpu.s - 3 = 0xFD := by
      show s.cfg.spAfterPowerOn + 3 - 3 = 0xFD
      rw [BitVec.add_sub_cancel, hs]
    rw [cpuReset_eq (powerOn s) hs]
    exact ⟨hsp, hread, getFlag_reset _ .u, getFlag_reset _ .b, getFlag_reset _ .i⟩

/-! ## The calls that follow -/

theorem branchCycles_pos (c : Bool) (rel : Byte) (s : State) : 0 < branchCycles c rel s := by
  unfold branchCycles
  split <;> omega

theorem readCycles_pos (o : Operand) (s : State) : 0 < readCycles o s := by
  cases o with
  | imm => exact Nat.succ_pos _
  | mem m => cases m <;> simp only [readCycles] <;> omega

theorem storeCycles_pos (m : MemOperand) : 0 < storeCycles m := by cases m <;> exact Nat.succ_pos _

theorem modifyCycles_pos (m : MemOperand) : 0 < modifyCycles m := by cases m <;> exact Nat.succ_pos _

/-- Every instruction takes a cycle (70_reset R259). -/
theorem cycles_pos (i : Instr) (s : State) : 0 < cycles i s := by
  cases i with
  | bpl | bmi | bvc | bvs | bcc | bcs | bne | beq => exact branchCycles_pos _ _ s
  | ora | and | eor | adc | lda | cmp | sbc | ldx | ldy | cpy | cpx => exact readCycles_pos _ s
  | bit m => exact readCycles_pos (.mem m) s
  | sta | stx | sty => exact storeCycles_pos _
  | asl | rol | lsr | ror | dec | inc => exact modifyCycles_pos _
  | jmpAbs | jmpInd | jsr | brk | rti | rts | php | plp | pha | pla | clc | sec | cli | sei | clv | cld | sed | tax
  | tay | txa | tya | txs | tsx | inx | iny | dex | dey | aslA | rolA | lsrA | rorA | nop | illegal =>
    exact Nat.succ_pos _

/-- An instruction leaves the list of calls (60_exceptions R240). -/
theorem exec_calls {i : Instr} {s t : State} (h : exec i s = .next t) : t.host.calls = s.host.calls := by
  by_cases hill : ∃ op, i = .illegal op
  · obtain ⟨op, rfl⟩ := hill
    cases hp : s.cfg.illegalOpcodePolicy with
    | report =>
      rw [exec_illegal_report op s hp] at h
      nomatch h
    | nop =>
      rw [exec_illegal_nop op s hp] at h
      cases h
      rfl
  · obtain ⟨u, hu, hcpu⟩ := legalInstructionsComplete i s (not_exists.mp hill)
    rw [hu] at h
    cases h
    rw [hcpu.host]

theorem cpuIrq_calls (s : State) : (cpuIrq s).host.calls = s.host.calls := by
  rw [cpuIrq_host]
  split <;> rfl

theorem boundary_calls (s : State) : (boundary s).host.calls = s.host.calls := by
  cases hentry : boundaryEntry s with
  | none => rw [boundary_of_none hentry]
  | some e =>
    cases e with
    | reset k =>
      rw [boundary_of_reset hentry]
      cases k with
      | cpu => rw [deliverReset, cpuReset_host]
      | console => rw [deliverReset_console]
    | nmi => rw [boundary_of_nmi hentry, cpuNmi_host]
    | irq => rw [boundary_of_irq hentry, cpuIrq_calls]

/-- No call makes or drops a call of the list itself (log 8). -/
theorem runCall_calls {c : Call} {s t : State} (h : runCall c s = .next t) : t.host.calls = s.host.calls := by
  cases c with
  | cpuStep =>
    rw [exec_calls h, (CpuOnly.refl (s.setOutcome .ok)).fetch.host]
    rfl
  | ppuStep =>
    obtain ⟨u, hu, hnote⟩ := andThen_eq_next.mp h
    cases hnote
    exact (congrArg RunLoop.calls (ppuStep_frame _ u hu).1.host :)
  | cpuNmi =>
    cases h
    exact (congrArg RunLoop.calls (cpuNmi_host _) :)
  | cpuIrq =>
    cases h
    exact cpuIrq_calls _
  | cpuReset =>
    cases h
    exact (congrArg RunLoop.calls (cpuReset_host _) :)
  | boundary =>
    cases h
    exact boundary_calls _
  | hostWrite a v =>
    cases h
    exact (congrArg RunLoop.calls (memWrite_host a v _) :)
  | hostChrWrite a v =>
    cases h
    split
    · rw [chrWrite_frame]
      rfl
    · rfl
  | ppuReset | oamDma | ppuResetFrames | busReset | setIrqLine | requestReset | hostSetPc | hostSetExt =>
    cases h
    rfl

/-- A step under the conventional schedule: its call, and the calls of R258 before those already listed. -/
theorem step_conventional {s t : State} (hsched : s.host.schedule = .conventional) (h : step s = .next t) :
    ∃ u, runCall s.nextCall s.dropCall = .next u ∧
      t.host.calls = followUp s.nextCall s.dropCall u ++ s.host.calls.tail := by
  unfold step at h
  split at h
  · obtain ⟨u, hu, hfollow⟩ := andThen_eq_next.mp h
    rw [State.dropCall_host_schedule, hsched] at hfollow
    cases hfollow
    exact ⟨u, hu, congrArg (_ ++ ·) (runCall_calls hu)⟩
  · nomatch h

/-- The calls that follow an interrupt or reset entry: 21 PPU steps (70_reset R258). -/
theorem followUp_entry {c : Call} {s u : State} (hu : runCall c s = .next u)
    (h : c = .cpuNmi ∨ c = .cpuReset ∨ (c = .cpuIrq ∧ s.flag .i = false) ∨ (c = .boundary ∧ boundaryEntry s ≠ none)) :
    followUp c s u = ppuSteps 21 := by
  obtain rfl | rfl | ⟨rfl, hi⟩ | ⟨rfl, hentry⟩ := h
  · rfl
  · rfl
  · cases hu
    have houtcome : (cpuIrq (s.setOutcome .ok)).host.outcome = .ok := by
      rw [cpuIrq_host, if_neg (by simpa [State.flag] using hi)]
      rfl
    exact if_neg (by simp [houtcome])
  · exact if_neg hentry

/-- A list of calls that begins with PPU steps: the next one is a PPU step. -/
theorem nextCall_of_ppuSteps {t : State} {n : Nat} {l : List Call} (hn : 0 < n) (h : t.host.calls = ppuSteps n ++ l) :
    t.nextCall = .ppuStep := by
  obtain ⟨m, rfl⟩ := Nat.exists_eq_succ_of_ne_zero (Nat.ne_of_gt hn)
  rw [State.nextCall, h]
  rfl

/-- The calls LATCH_SAFE_SCHEDULE is about: `cpu_step`, and the entries that are taken (70_reset R251). -/
theorem entersCpu_iff (s : State) (c : Call) : c.entersCpu s = true ↔
    c = .cpuStep ∨ c = .cpuNmi ∨ c = .cpuReset ∨ (c = .cpuIrq ∧ s.flag .i = false) ∨
      (c = .boundary ∧ boundaryEntry s ≠ none) := by
  cases c <;> simp [Call.entersCpu, Option.isSome_iff_ne_none]

/-- Settles O60: the calls that follow are put first, by `step_conventional`; for a `cpu_step` they begin with a PPU
step, as every instruction takes a cycle, and for an entry they are `followUp_entry`'s. -/
theorem conventionalSchedule : Obligations.ConventionalSchedule := by
  intro s t hsched h
  obtain ⟨u, hu, hcalls⟩ := step_conventional hsched h
  have hentry := followUp_entry hu
  refine ⟨fun henters => ?first, fun he => ?entries, fun bytes hc => ?oamDma, fun hc => ?ppuStep⟩
  case entries =>
    rw [hcalls, hentry he]
    rfl
  case oamDma =>
    rw [hcalls, hc]
    rfl
  case ppuStep =>
    rw [hcalls, hc]
    rfl
  case first =>
    rcases (entersCpu_iff s s.nextCall).mp henters with hc | he
    · rw [hc, followUp_cpuStep s.dropCall u .ok, List.append_assoc] at hcalls
      exact nextCall_of_ppuSteps (Nat.mul_pos (by decide) (cycles_pos _ _)) hcalls
    · exact nextCall_of_ppuSteps (n := 21) (by decide) (hcalls.trans (by rw [hentry he]))

end Sys2Proof.Machine
end

section
/-! SUPPORT. The decoder on words written out from the encodings of 41 to 47. -/

namespace Sys2Proof

/-- Settles O1: the decoder evaluated on each word. -/
theorem sampleWordsDecode : Obligations.SampleWordsDecode :=
  ⟨rfl, rfl, rfl, rfl, rfl, rfl, rfl, rfl, rfl, rfl, rfl⟩

end Sys2Proof
end
